-- ==== Sys2Proof/Word.lean ====
section
/-! DEFINITION. The machine's word types (spec/00_scope.md R6, R8, R9): every value is unsigned, of a stated width. -/

namespace Sys2Proof

/-- A general register, a timer, a memory cell, the immediate KK (R6: XLEN = 8). -/
abbrev Byte := BitVec 8

/-- The pc, I, a stack slot, an instruction word (R6: PC_BITS = I_BITS = STACK_WIDTH = ILEN = 16). -/
abbrev Word := BitVec 16

/-- The 12-bit address field NNN (30_encoding.md R81). -/
abbrev Addr := BitVec 12

/-- A 4-bit field of an instruction word (R12: nibble); N is one. -/
abbrev Nibble := BitVec 4

/-- The index of a general register, 0..15 (10_state.md R20; fields X and Y of R81). -/
abbrev RegIx := BitVec 4

/-- VF, the sixteenth general register, which doubles as the flag (10_state.md R21). -/
abbrev VF : RegIx := 15#4

end Sys2Proof
end

