-- ==== Sys2Proof/Syntax.lean ====
section
/-! DEFINITION. The instructions: one constructor per row of spec/opcode_table.json, in the table's order (30_encoding.md R84).
A word of no row is an unrecognised no-op (R86); it is no instruction and has no constructor. Bits an instruction ignores (R85) are no
operands of it. -/

namespace Sys2Proof

inductive Instr where
  /-- CLS, 00E0 (R200) -/
  | cls
  /-- RET, 00EE (R130) -/
  | ret
  /-- JP addr, 1NNN (R131) -/
  | jp (nnn : Addr)
  /-- CALL addr, 2NNN (R132) -/
  | call (nnn : Addr)
  /-- SE Vx,byte, 3XKK (R133) -/
  | seByte (x : RegIx) (kk : Byte)
  /-- SNE Vx,byte, 4XKK (R134) -/
  | sneByte (x : RegIx) (kk : Byte)
  /-- SE Vx,Vy, 5XY0 (R135) -/
  | seReg (x y : RegIx)
  /-- SNE Vx,Vy, 9XY0 (R136) -/
  | sneReg (x y : RegIx)
  /-- LD Vx,byte, 6XKK (R150) -/
  | ldByte (x : RegIx) (kk : Byte)
  /-- ADD Vx,byte, 7XKK (R151) -/
  | addByte (x : RegIx) (kk : Byte)
  /-- LD Vx,Vy, 8XY0 (R152) -/
  | ldReg (x y : RegIx)
  /-- OR Vx,Vy, 8XY1 (R153) -/
  | orReg (x y : RegIx)
  /-- AND Vx,Vy, 8XY2 (R154) -/
  | andReg (x y : RegIx)
  /-- XOR Vx,Vy, 8XY3 (R155) -/
  | xorReg (x y : RegIx)
  /-- ADD Vx,Vy, 8XY4 (R156) -/
  | addReg (x y : RegIx)
  /-- SUB Vx,Vy, 8XY5 (R157) -/
  | subReg (x y : RegIx)
  /-- SHR Vx, 8XY6, Y ignored (R158) -/
  | shr (x : RegIx)
  /-- SUBN Vx,Vy, 8XY7 (R159) -/
  | subnReg (x y : RegIx)
  /-- SHL Vx, 8XYE, Y ignored (R160) -/
  | shl (x : RegIx)
  /-- LD I,addr, ANNN (R180) -/
  | ldI (nnn : Addr)
  /-- JP V0,addr, BNNN (R138) -/
  | jpV0 (nnn : Addr)
  /-- RND Vx,byte, CXKK (R161) -/
  | rnd (x : RegIx) (kk : Byte)
  /-- DRW Vx,Vy,n, DXYN (R202) -/
  | drw (x y : RegIx) (n : Nibble)
  /-- SKP Vx, EX9E (R220) -/
  | skp (x : RegIx)
  /-- SKNP Vx, EXA1 (R221) -/
  | sknp (x : RegIx)
  /-- LD Vx,DT, FX07 (R222) -/
  | ldVxDT (x : RegIx)
  /-- LD DT,Vx, FX15 (R223) -/
  | ldDTVx (x : RegIx)
  /-- LD ST,Vx, FX18 (R224) -/
  | ldSTVx (x : RegIx)
  /-- ADD I,Vx, FX1E (R181) -/
  | addIVx (x : RegIx)
  /-- LD F,Vx, FX29 (R182) -/
  | ldFVx (x : RegIx)
  /-- LD B,Vx, FX33 (R183) -/
  | ldBVx (x : RegIx)
  /-- LD [I],Vx, FX55 (R185) -/
  | ldMemVx (x : RegIx)
  /-- LD Vx,[I], FX65 (R186) -/
  | ldVxMem (x : RegIx)
  /-- LD Vx,K, FX0A (R225) -/
  | ldVxK (x : RegIx)
  deriving DecidableEq, Repr

end Sys2Proof
end

