-- ==== Sys2Proof/Decode.lean ====
section
/-! DEFINITION. The decoder, total on any two bytes (spec/30_encoding.md R81 to R86, R91), the encoder written from the same formats (R82,
R84), and the opcode map as data (`opcodeRows`), which the decoder is held against. -/

namespace Sys2Proof

/-! The fields of an instruction word (R81). -/

/-- OP = w[15:12], the high nibble. -/
def opField (w : Word) : Nibble := w.extractLsb' 12 4
/-- X = w[11:8]. -/
def xField (w : Word) : RegIx := w.extractLsb' 8 4
/-- Y = w[7:4]. -/
def yField (w : Word) : RegIx := w.extractLsb' 4 4
/-- N = w[3:0]. -/
def nField (w : Word) : Nibble := w.extractLsb' 0 4
/-- KK = w[7:0]. -/
def kkField (w : Word) : Byte := w.extractLsb' 0 8
/-- NNN = w[11:0]. -/
def nnnField (w : Word) : Addr := w.extractLsb' 0 12

/-- The dispatch mask the high nibble selects (R83). -/
def dispatchMask (op : Nibble) : Word :=
  if op = 0x0#4 ∨ op = 0x8#4 then 0xF00F#16
  else if op = 0xE#4 ∨ op = 0xF#4 then 0xF0FF#16
  else 0xF000#16

/-- The dispatch key (R83). -/
def dispatchKey (w : Word) : Word := w &&& dispatchMask (opField w)

/-- The 35 outcomes of decoding (R91): one of the 34 instructions, or unrecognised, which names the word's dispatch key. -/
inductive Decoded where
  | instr (i : Instr)
  | unrecognised (key : Word)
  deriving DecidableEq, Repr

/-- Family 0: the low nibble selects; bits 11..4 are ignored (R84 rows 1 and 2, R85 a). -/
def decodeFamily0 (n : Nibble) : Option Instr :=
  match n.toNat with
  | 0x0 => some .cls
  | 0xE => some .ret
  | _ => none

/-- Family 8: the low nibble selects (R84 rows 11 to 19); SHR and SHL ignore Y (R85 c). -/
def decodeFamily8 (x y : RegIx) (n : Nibble) : Option Instr :=
  match n.toNat with
  | 0x0 => some (.ldReg x y)
  | 0x1 => some (.orReg x y)
  | 0x2 => some (.andReg x y)
  | 0x3 => some (.xorReg x y)
  | 0x4 => some (.addReg x y)
  | 0x5 => some (.subReg x y)
  | 0x6 => some (.shr x)
  | 0x7 => some (.subnReg x y)
  | 0xE => some (.shl x)
  | _ => none

/-- Family E: the low byte selects (R84 rows 24 and 25). -/
def decodeFamilyE (x : RegIx) (kk : Byte) : Option Instr :=
  match kk.toNat with
  | 0x9E => some (.skp x)
  | 0xA1 => some (.sknp x)
  | _ => none

/-- Family F: the low byte selects (R84 rows 26 to 34). -/
def decodeFamilyF (x : RegIx) (kk : Byte) : Option Instr :=
  match kk.toNat with
  | 0x07 => some (.ldVxDT x)
  | 0x0A => some (.ldVxK x)
  | 0x15 => some (.ldDTVx x)
  | 0x18 => some (.ldSTVx x)
  | 0x1E => some (.addIVx x)
  | 0x29 => some (.ldFVx x)
  | 0x33 => some (.ldBVx x)
  | 0x55 => some (.ldMemVx x)
  | 0x65 => some (.ldVxMem x)
  | _ => none

/-- The two-tier dispatch of R83 and R84, on the word's fields. 5XY? and 9XY? ignore bits 3..0 (R85 b). -/
def decodeFields (op : Nibble) (x y : RegIx) (n : Nibble) (kk : Byte) (nnn : Addr) : Option Instr :=
  match op.toNat with
  | 0x0 => decodeFamily0 n
  | 0x1 => some (.jp nnn)
  | 0x2 => some (.call nnn)
  | 0x3 => some (.seByte x kk)
  | 0x4 => some (.sneByte x kk)
  | 0x5 => some (.seReg x y)
  | 0x6 => some (.ldByte x kk)
  | 0x7 => some (.addByte x kk)
  | 0x8 => decodeFamily8 x y n
  | 0x9 => some (.sneReg x y)
  | 0xA => some (.ldI nnn)
  | 0xB => some (.jpV0 nnn)
  | 0xC => some (.rnd x kk)
  | 0xD => some (.drw x y n)
  | 0xE => decodeFamilyE x kk
  | _ => decodeFamilyF x kk

/-- Decoding of a 16-bit word, total (R91). -/
def decodeWord (w : Word) : Decoded :=
  match decodeFields (opField w) (xField w) (yField w) (nField w) (kkField w) (nnnField w) with
  | some i => .instr i
  | none => .unrecognised (dispatchKey w)

/-- The instruction word of two consecutive bytes, the byte at the lower address in bits 15..8 (20_memory.md R54). -/
def wordOfBytes (hi lo : Byte) : Word := hi ++ lo

/-- Decoding of any two bytes, the byte at the lower address first. -/
def decodeBytes (hi lo : Byte) : Decoded := decodeWord (wordOfBytes hi lo)

/-! The formats (R82), most significant field first. Format Z is XYN with its fields ignored, XY and XYF are XYN with N fixed, XF is
XK with the function code in KK. -/

/-- Format A: OP, NNN. -/
def formatA (op : Nibble) (nnn : Addr) : Word := op ++ nnn
/-- Formats XK and XF: OP, X, KK. -/
def formatXK (op : Nibble) (x : RegIx) (kk : Byte) : Word := op ++ x ++ kk
/-- Formats XYN, XY, XYF and Z: OP, X, Y, N. -/
def formatXYN (op : Nibble) (x y : RegIx) (n : Nibble) : Word := op ++ x ++ y ++ n

/-- The word of an instruction, by the formats of R82 and the numbers of R84. Ignored bits are written as a customary assembler
writes them (R85): 00E0, 00EE, and 0 elsewhere (DESIGN CHOICE, log entry 7; safe: the decoder ignores them). -/
def encode : Instr → Word
  | .cls => formatXYN 0x0#4 0x0#4 0xE#4 0x0#4
  | .ret => formatXYN 0x0#4 0x0#4 0xE#4 0xE#4
  | .jp nnn => formatA 0x1#4 nnn
  | .call nnn => formatA 0x2#4 nnn
  | .seByte x kk => formatXK 0x3#4 x kk
  | .sneByte x kk => formatXK 0x4#4 x kk
  | .seReg x y => formatXYN 0x5#4 x y 0x0#4
  | .sneReg x y => formatXYN 0x9#4 x y 0x0#4
  | .ldByte x kk => formatXK 0x6#4 x kk
  | .addByte x kk => formatXK 0x7#4 x kk
  | .ldReg x y => formatXYN 0x8#4 x y 0x0#4
  | .orReg x y => formatXYN 0x8#4 x y 0x1#4
  | .andReg x y => formatXYN 0x8#4 x y 0x2#4
  | .xorReg x y => formatXYN 0x8#4 x y 0x3#4
  | .addReg x y => formatXYN 0x8#4 x y 0x4#4
  | .subReg x y => formatXYN 0x8#4 x y 0x5#4
  | .shr x => formatXYN 0x8#4 x 0x0#4 0x6#4
  | .subnReg x y => formatXYN 0x8#4 x y 0x7#4
  | .shl x => formatXYN 0x8#4 x 0x0#4 0xE#4
  | .ldI nnn => formatA 0xA#4 nnn
  | .jpV0 nnn => formatA 0xB#4 nnn
  | .rnd x kk => formatXK 0xC#4 x kk
  | .drw x y n => formatXYN 0xD#4 x y n
  | .skp x => formatXK 0xE#4 x 0x9E#8
  | .sknp x => formatXK 0xE#4 x 0xA1#8
  | .ldVxDT x => formatXK 0xF#4 x 0x07#8
  | .ldDTVx x => formatXK 0xF#4 x 0x15#8
  | .ldSTVx x => formatXK 0xF#4 x 0x18#8
  | .addIVx x => formatXK 0xF#4 x 0x1E#8
  | .ldFVx x => formatXK 0xF#4 x 0x29#8
  | .ldBVx x => formatXK 0xF#4 x 0x33#8
  | .ldMemVx x => formatXK 0xF#4 x 0x55#8
  | .ldVxMem x => formatXK 0xF#4 x 0x65#8
  | .ldVxK x => formatXK 0xF#4 x 0x0A#8

/-- The bits of a word that the instruction does not ignore (R85). -/
def usedBits : Instr → Word
  | .cls => 0xF00F#16
  | .ret => 0xF00F#16
  | .seReg _ _ => 0xFFF0#16
  | .sneReg _ _ => 0xFFF0#16
  | .shr _ => 0xFF0F#16
  | .shl _ => 0xFF0F#16
  | _ => 0xFFFF#16

/-- The two bytes of an instruction as they lie in memory, lower address first (R54). -/
def encodeBytes (i : Instr) : Byte × Byte :=
  ((encode i).extractLsb' 8 8, (encode i).extractLsb' 0 8)

/-- One row of the opcode map: a word w selects it when `w and mask = match` (R84). -/
structure OpcodeRow where
  mnemonic : String
  mask : Word
  value : Word
  deriving DecidableEq, Repr

/-- The word selects the row (R84). -/
def rowSelects (w : Word) (r : OpcodeRow) : Bool := w &&& r.mask == r.value

/-- The opcode map of R84, transcribed row by row (mnemonics as in spec/opcode_table.json); `decodeWord` does not use it. -/
def opcodeRows : List OpcodeRow :=
  [⟨"CLS", 0xF00F, 0x0000⟩, ⟨"RET", 0xF00F, 0x000E⟩, ⟨"JP_addr", 0xF000, 0x1000⟩, ⟨"CALL_addr", 0xF000, 0x2000⟩,
   ⟨"SE_Vx_byte", 0xF000, 0x3000⟩, ⟨"SNE_Vx_byte", 0xF000, 0x4000⟩, ⟨"SE_Vx_Vy", 0xF000, 0x5000⟩, ⟨"SNE_Vx_Vy", 0xF000, 0x9000⟩,
   ⟨"LD_Vx_byte", 0xF000, 0x6000⟩, ⟨"ADD_Vx_byte", 0xF000, 0x7000⟩] ++
  [⟨"LD_Vx_Vy", 0xF00F, 0x8000⟩, ⟨"OR_Vx_Vy", 0xF00F, 0x8001⟩, ⟨"AND_Vx_Vy", 0xF00F, 0x8002⟩, ⟨"XOR_Vx_Vy", 0xF00F, 0x8003⟩,
   ⟨"ADD_Vx_Vy", 0xF00F, 0x8004⟩, ⟨"SUB_Vx_Vy", 0xF00F, 0x8005⟩, ⟨"SHR_Vx", 0xF00F, 0x8006⟩, ⟨"SUBN_Vx_Vy", 0xF00F, 0x8007⟩,
   ⟨"SHL_Vx", 0xF00F, 0x800E⟩, ⟨"LD_I_addr", 0xF000, 0xA000⟩, ⟨"JP_V0_addr", 0xF000, 0xB000⟩, ⟨"RND_Vx_byte", 0xF000, 0xC000⟩,
   ⟨"DRW_Vx_Vy_n", 0xF000, 0xD000⟩] ++
  [⟨"SKP_Vx", 0xF0FF, 0xE09E⟩, ⟨"SKNP_Vx", 0xF0FF, 0xE0A1⟩, ⟨"LD_Vx_DT", 0xF0FF, 0xF007⟩, ⟨"LD_DT_Vx", 0xF0FF, 0xF015⟩,
   ⟨"LD_ST_Vx", 0xF0FF, 0xF018⟩, ⟨"ADD_I_Vx", 0xF0FF, 0xF01E⟩, ⟨"LD_F_Vx", 0xF0FF, 0xF029⟩, ⟨"LD_B_Vx", 0xF0FF, 0xF033⟩,
   ⟨"LD__I__Vx", 0xF0FF, 0xF055⟩, ⟨"LD_Vx__I", 0xF0FF, 0xF065⟩, ⟨"LD_Vx_K", 0xF0FF, 0xF00A⟩]

/-- The mnemonic of each constructor's row in spec/opcode_table.json. -/
def mnemonicOf : Instr → String
  | .cls => "CLS" | .ret => "RET" | .jp _ => "JP_addr" | .call _ => "CALL_addr"
  | .seByte _ _ => "SE_Vx_byte" | .sneByte _ _ => "SNE_Vx_byte" | .seReg _ _ => "SE_Vx_Vy" | .sneReg _ _ => "SNE_Vx_Vy"
  | .ldByte _ _ => "LD_Vx_byte" | .addByte _ _ => "ADD_Vx_byte" | .ldReg _ _ => "LD_Vx_Vy" | .orReg _ _ => "OR_Vx_Vy"
  | .andReg _ _ => "AND_Vx_Vy" | .xorReg _ _ => "XOR_Vx_Vy" | .addReg _ _ => "ADD_Vx_Vy" | .subReg _ _ => "SUB_Vx_Vy"
  | .shr _ => "SHR_Vx" | .subnReg _ _ => "SUBN_Vx_Vy" | .shl _ => "SHL_Vx" | .ldI _ => "LD_I_addr"
  | .jpV0 _ => "JP_V0_addr" | .rnd _ _ => "RND_Vx_byte" | .drw _ _ _ => "DRW_Vx_Vy_n" | .skp _ => "SKP_Vx"
  | .sknp _ => "SKNP_Vx" | .ldVxDT _ => "LD_Vx_DT" | .ldDTVx _ => "LD_DT_Vx" | .ldSTVx _ => "LD_ST_Vx"
  | .addIVx _ => "ADD_I_Vx" | .ldFVx _ => "LD_F_Vx" | .ldBVx _ => "LD_B_Vx" | .ldMemVx _ => "LD__I__Vx"
  | .ldVxMem _ => "LD_Vx__I" | .ldVxK _ => "LD_Vx_K"

/-- The instruction the decoder reads from a table word: `nbits` bits `w`, higher bits 0, laid out most significant byte at the
lower address as the hardware stores it (R54). `none` where the word is unrecognised. -/
def decodeTableWord (nbits w : Nat) : Option Instr :=
  let bits := w % 2 ^ nbits
  match decodeBytes (BitVec.ofNat 8 (bits / 256)) (BitVec.ofNat 8 bits) with
  | .instr i => some i
  | .unrecognised _ => none

end Sys2Proof
end

