-- ==== Sys2Proof/Config.lean ====
section
/-! DEFINITION. What is fixed for this machine (the parameter table of spec/00_scope.md R6) and the one free value. FONT_TABLE is an argument
of reset (Machine/Font.lean, Machine/HostPort.lean); the sizes that a type carries (16 registers, 16 slots, 64 x 32 pixels) stand in
Machine/State.lean, MEM_SIZE in Machine/Ops.lean. -/

namespace Sys2Proof

/-- PROG_BASE: where a program image is loaded (R6). -/
abbrev Config.progBase : Nat := 0x200

/-- FONT_BASE: where reset puts FONT_TABLE (R6). -/
abbrev Config.fontBase : Nat := 0x50

/-- MAX_IMAGE: the longest program image, in bytes (R6). -/
abbrev Config.maxImage : Nat := 3584

/-- RESET_PC (R6). -/
abbrev Config.resetPc : Word := 0x200#16

/-- The random byte of the n-th draw (10_state.md R30: an input under no law). A FREE VALUE: it has no body, so nothing can be
proved about it. DESIGN CHOICE, log entry 2; safe: what holds for every function holds for every sequence of draws. -/
opaque Config.rnd : Nat → Byte

end Sys2Proof
end

