-- ==== Sys2Proof/Machine/Font.lean ====
section
/-! DEFINITION. FONT_TABLE, an argument of reset, its default, and the reset contents of memory under the default (spec/20_memory.md R51,
R63; 10_state.md R36). -/

namespace Sys2Proof.Machine

/-- A FONT_TABLE: 80 bytes, the glyph of digit d at offset 5*d, top row first (R6, R63). It is an argument of `State.resetWith` and
`State.hostReset` (92_eei_decisions.md D6). -/
abbrev FontTable := Vector Byte 80

/-- The bytes of the default FONT_TABLE, the table of R63. PRESUMED (log entry 4): the spec marks them as general knowledge. -/
def fontTable : List Byte :=
  [0xF0, 0x90, 0x90, 0x90, 0xF0,  0x20, 0x60, 0x20, 0x20, 0x70,  0xF0, 0x10, 0xF0, 0x80, 0xF0,  0xF0, 0x10, 0xF0, 0x10, 0xF0] ++
  [0x90, 0x90, 0xF0, 0x10, 0x10,  0xF0, 0x80, 0xF0, 0x10, 0xF0,  0xF0, 0x80, 0xF0, 0x90, 0xF0,  0xF0, 0x10, 0x20, 0x40, 0x40] ++
  [0xF0, 0x90, 0xF0, 0x90, 0xF0,  0xF0, 0x90, 0xF0, 0x10, 0xF0,  0xF0, 0x90, 0xF0, 0x90, 0x90,  0xE0, 0x90, 0xE0, 0x90, 0xE0] ++
  [0xF0, 0x80, 0x80, 0x80, 0xF0,  0xE0, 0x90, 0x90, 0x90, 0xE0,  0xF0, 0x80, 0xF0, 0x80, 0xF0,  0xF0, 0x80, 0xF0, 0x80, 0x80]

/-- The default FONT_TABLE (R6, R63). -/
def defaultFont : FontTable := ⟨fontTable.toArray, by decide⟩

/-- What an address that memory does not list reads as: its contents after a reset with the default FONT_TABLE (R36), the table at
[0x050, 0x0A0) and 0 everywhere else. A machine reset with another table lists the bytes that differ (`State.resetWith`). -/
def resetByte (a : Nat) : Byte :=
  if 0x50 ≤ a then fontTable.getD (a - 0x50) 0 else 0

end Sys2Proof.Machine
end

