-- ==== Sys2Proof/Machine/State.lean ====
section
/-! DEFINITION. The machine's state as plain data (spec/10_state.md R20 to R36), why it stops, and the state after reset (R36).
INVENTORY.md's '## State' lists every field with its rule and its reset value. -/

namespace Sys2Proof.Machine

/-- MEM (R31): the bytes that differ from the reset contents, addresses strictly rising (`Memory.wf` in Ops.lean). What an unlisted
address reads as is `resetByte` in Font.lean. -/
abbrev Memory := List Host.Cell

/-- FB (R26): 64 x 32 pixels; bit 64*y + x is FB[x, y], as on the `fb` port (R35). -/
abbrev Framebuffer := BitVec 2048

/-- FAULT (R29), the 2-bit latch: 0, 1 or 2; the value 3 is never produced, so it has no constructor. -/
inductive FaultLatch where
  /-- 0: the CORE runs. -/
  | running
  /-- 1: a CALL with SP = 16 was raised (R241). -/
  | stackOverflow
  /-- 2: a RET with SP = 0 was raised (R241). -/
  | stackUnderflow
  deriving DecidableEq, Repr

/-- Everything the spec gives the machine (R33 lists it), less CUR, which R28 lets be a local value of the step (log entry 5). -/
structure State where
  /-- V[0]..V[15] (R20); V[15] is VF (R21). -/
  v : Vector Byte 16
  /-- I (R22): all 16 bits are kept. -/
  index : Word
  /-- pc (R23): a byte address, all 16 bits kept. -/
  pc : Word
  /-- STACK[0]..STACK[15] (R24). -/
  stack : Vector Word 16
  /-- SP (R24): the number of occupied slots, 0..16 (90_conflicts.md C2). -/
  sp : Fin 17
  /-- DT (R25). -/
  dt : Byte
  /-- ST (R25). -/
  st : Byte
  /-- FB (R26). -/
  fb : Framebuffer
  /-- KEY (R27): bit k is KEY[k], as the host last wrote it; the CORE never writes it. -/
  keys : BitVec 16
  /-- FAULT (R29). -/
  fault : FaultLatch
  /-- MEM (R31). -/
  mem : Memory
  /-- The model's own field: how many random bytes RND has consumed (R30), the argument of the free value `Config.rnd`
  (log entry 2). -/
  draws : Nat
  deriving DecidableEq, Repr

/-- Why a step answers a fault. No meaning of an instruction answers one: a CALL or RET that raises answers a next state with
the latch set (R244), and the CORE then is halted (R117). -/
inductive Fault where
  /-- Raised by `step`, in a state whose latch is StackOverflow: a halted CORE does nothing, and a model treats it as a fault
  (R117). Safe: the machine stops. -/
  | haltedStackOverflow
  /-- Raised by `step`, in a state whose latch is StackUnderflow (R117). Safe: the machine stops. -/
  | haltedStackUnderflow
  deriving DecidableEq, Repr

/-- Why an instruction is refused. -/
inductive Refusal where
  /-- Raised by an arm of `exec` whose instruction has no meaning yet; no arm of this model does. Safe: the machine stops. -/
  | notModelled (mnemonic : String)
  deriving DecidableEq, Repr

/-- The machine right after reset (R36) with the default FONT_TABLE (R6): everything zero but the pc (0x200) and the table, which is
what unlisted memory reads as; `State.resetWith` in HostPort.lean takes any table. The keys are the host's and reset gives them no value:
none pressed (DESIGN CHOICE, log entry 1, unsafe). `draws` is the model's own (DESIGN CHOICE, log entry 2). -/
def State.reset : State where
  v := Vector.replicate 16 0
  index := 0
  pc := Config.resetPc
  stack := Vector.replicate 16 0
  sp := 0
  dt := 0
  st := 0
  fb := 0
  keys := 0
  fault := .running
  mem := []
  draws := 0

end Sys2Proof.Machine
end

