-- ==== Sys2Proof/Machine/Ops.lean ====
section
/-! DEFINITION. The named operations over memory, registers, pc, stack, timers, display and the fault latch. Every read and write of the
state by a meaning goes through these. -/

namespace Sys2Proof.Machine

/-! ## Memory (spec/20_memory.md) -/

/-- The address translator (R52): any address modulo 4096. -/
def translate (addr : Nat) : Nat := addr % 4096

/-- The byte listed at a translated address, or its reset contents where none is listed (R36). -/
def Memory.read : Memory → Nat → Byte
  | [], a => resetByte a
  | (k, b) :: rest, a => if k = a then b else Memory.read rest a

/-- The list without the entries of one address. -/
def Memory.erase (m : Memory) (a : Nat) : Memory := m.filter fun c => c.1 != a

/-- A new entry in its place by address. -/
def Memory.insert : Memory → Nat → Byte → Memory
  | [], a, b => [(a, b)]
  | (k, c) :: rest, a, b => if a < k then (a, b) :: (k, c) :: rest else (k, c) :: Memory.insert rest a b

/-- One byte set at a translated address, in canonical form: writing the reset contents removes the entry. -/
def Memory.write (m : Memory) (a : Nat) (b : Byte) : Memory :=
  if b = resetByte a then m.erase a else (m.erase a).insert a b

/-- Addresses strictly rise from `low`, lie below 4096, and no entry equals the reset contents. -/
def Memory.wfFrom : Nat → Memory → Bool
  | _, [] => true
  | low, (a, b) :: rest => low ≤ a && a < 4096 && b != resetByte a && Memory.wfFrom (a + 1) rest

/-- The canonical form of memory. -/
def Memory.wf (m : Memory) : Bool := Memory.wfFrom 0 m

/-- MemRead(addr, 1) (R53). -/
def State.memRead (s : State) (addr : Nat) : Byte := s.mem.read (translate addr)

/-- MemWrite(addr, 1, b) (R53). -/
def State.memWrite (s : State) (addr : Nat) (b : Byte) : State := { s with mem := s.mem.write (translate addr) b }

/-- Bytes stored from an address up, ascending: a program image (R62), a font table (R63). -/
def State.storeBytes (s : State) (addr : Nat) : List Byte → State
  | [] => s
  | b :: rest => (s.memWrite addr b).storeBytes (addr + 1) rest

/-! ## Registers (spec/10_state.md) -/

/-- V[x] (R20). -/
def State.reg (s : State) (x : RegIx) : Byte := s.v[x.toNat]'x.isLt

/-- V[x] <- b (R20). -/
def State.setReg (s : State) (x : RegIx) (b : Byte) : State := { s with v := s.v.set x.toNat b x.isLt }

/-- I <- a (R22). -/
def State.setIndex (s : State) (a : Word) : State := { s with index := a }

/-- pc <- a (R23). -/
def State.setPc (s : State) (a : Word) : State := { s with pc := a }

/-- DT <- b (R25). -/
def State.setDT (s : State) (b : Byte) : State := { s with dt := b }

/-- ST <- b (R25). -/
def State.setST (s : State) (b : Byte) : State := { s with st := b }

/-- The display replaced (R26). -/
def State.setFb (s : State) (f : Framebuffer) : State := { s with fb := f }

/-- FB[x, y] (R26). -/
def Framebuffer.pixel (f : Framebuffer) (x y : Nat) : Bool := f.getLsbD (64 * y + x)

/-- FB[x, y] <- FB[x, y] xor 1 (R26, R202). -/
def Framebuffer.toggle (f : Framebuffer) (x y : Nat) : Framebuffer := f ^^^ BitVec.twoPow 2048 (64 * y + x)

/-- The random byte of this step (R30): the free value at the number of bytes consumed so far. -/
def State.rnd (s : State) : Byte := Config.rnd s.draws

/-- One random byte is consumed (R30, R161). -/
def State.consumeDraw (s : State) : State := { s with draws := s.draws + 1 }

/-! ## Faults (spec/60_exceptions.md R244)

There is no return from a fault (R245): only the host's reset clears the latch (HostPort.lean). -/

/-- raise Fault(code): the instruction has no effect but FAULT <- code; `commit` abandons the rest of the step. -/
def State.raiseFault (s : State) (code : FaultLatch) : State := { s with fault := code }

/-! ## Control flow (spec/41_flow.md) -/

/-- skip, when the condition holds: pc <- pc + 2 modulo 65536 (R137). -/
def State.skipIf (s : State) (cond : Bool) : State := if cond then s.setPc (s.pc + 2) else s

/-- CALL's push and jump (R132): StackOverflow when the stack is full. -/
def State.callTo (s : State) (target : Word) : State :=
  if h : s.sp.val < 16 then
    { s with stack := s.stack.set s.sp.val s.pc h, sp := ⟨s.sp.val + 1, by omega⟩, pc := target }
  else s.raiseFault .stackOverflow

/-- RET's pop (R130): StackUnderflow when the stack is empty; the slot keeps its value (R24). -/
def State.returnToCaller (s : State) : State :=
  if h : 0 < s.sp.val then
    { s with sp := ⟨s.sp.val - 1, by omega⟩, pc := s.stack[s.sp.val - 1]'(by omega) }
  else s.raiseFault .stackUnderflow

/-! ## The phases of a step (spec/40_step_cycle.md R110) -/

/-- Fetch (R111): the big-endian word at the pc, both bytes through the translator. -/
def State.fetchWord (s : State) : Word := wordOfBytes (s.memRead s.pc.toNat) (s.memRead (s.pc.toNat + 1))

/-- Advance (R112): pc <- pc + 2 modulo 65536. -/
def State.advance (s : State) : State := s.setPc (s.pc + 2)

/-- One timer, one tick: down by one, saturating at zero (R114). -/
def tickDown (t : Byte) : Byte := if t = 0 then 0 else t - 1

/-- The timer tick (R114): both timers, independently. -/
def State.tick (s : State) : State := (s.setDT (tickDown s.dt)).setST (tickDown s.st)

/-- The end of a step that began in `before` and whose execute phase left `after`: the tick (R114), unless the instruction
raised, in which case the whole state is as before the step except FAULT (R244: fetch and pc advance are not committed). -/
def State.commit (before after : State) : State :=
  if after.fault = .running then after.tick else before.raiseFault after.fault

end Sys2Proof.Machine
end

