-- ==== Sys2Proof/Machine/Flags.lean ====
section
/-! DEFINITION. The flag computations and the flag write (spec/10_state.md R21; 42_alu.md R156 to R160, R162, R163). Every flag is
computed from operands latched before any write. -/

namespace Sys2Proof.Machine

/-- A flag as the whole of VF: 0 or 1 (R21). -/
def flagByte (b : Bool) : Byte := if b then 1 else 0

/-- The 9-bit sum of ADD Vx,Vy (R156). -/
def sum9 (a b : Byte) : BitVec 9 := a.setWidth 9 + b.setWidth 9

/-- ADD's flag: the 9-bit sum exceeds 255 (R156). -/
def carryFlag (a b : Byte) : Bool := decide (255 < (sum9 a b).toNat)

/-- SUB's flag, and with swapped operands SUBN's: strictly greater, unsigned (R157, R159). -/
def greaterFlag (a b : Byte) : Bool := decide (b.toNat < a.toNat)

/-- SHR's flag: bit 0 before the shift (R158). -/
def lowBitFlag (a : Byte) : Bool := a.getLsbD 0

/-- SHL's flag: bit 7 before the shift (R160). -/
def highBitFlag (a : Byte) : Bool := a.getLsbD 7

/-- The two writes of a flag-writing instruction, V[F] <- flag and then V[x] <- result (R163): with x = F the result stays. -/
def State.setFlagThenReg (s : State) (flag : Bool) (x : RegIx) (result : Byte) : State :=
  (s.setReg VF (flagByte flag)).setReg x result

end Sys2Proof.Machine
end

