-- ==== Sys2Proof/Machine/Alu.lean ====
section
/-! DEFINITION. Register moves, the ALU and RND (spec/42_alu.md). Operands are read once, before any write (R162). -/

namespace Sys2Proof.Machine

/-- LD Vx,byte (R150). -/
def execLdByte (x : RegIx) (kk : Byte) (s : State) : Host.Outcome State Fault Refusal := .next (s.setReg x kk)

/-- ADD Vx,byte (R151): modulo 256, no flag. -/
def execAddByte (x : RegIx) (kk : Byte) (s : State) : Host.Outcome State Fault Refusal := .next (s.setReg x (s.reg x + kk))

/-- LD Vx,Vy (R152). -/
def execLdReg (x y : RegIx) (s : State) : Host.Outcome State Fault Refusal := .next (s.setReg x (s.reg y))

/-- OR Vx,Vy (R153). -/
def execOrReg (x y : RegIx) (s : State) : Host.Outcome State Fault Refusal := .next (s.setReg x (s.reg x ||| s.reg y))

/-- AND Vx,Vy (R154). -/
def execAndReg (x y : RegIx) (s : State) : Host.Outcome State Fault Refusal := .next (s.setReg x (s.reg x &&& s.reg y))

/-- XOR Vx,Vy (R155). -/
def execXorReg (x y : RegIx) (s : State) : Host.Outcome State Fault Refusal := .next (s.setReg x (s.reg x ^^^ s.reg y))

/-- ADD Vx,Vy (R156): 9-bit sum, VF its carry, Vx its low 8 bits. -/
def execAddReg (x y : RegIx) (s : State) : Host.Outcome State Fault Refusal :=
  .next (s.setFlagThenReg (carryFlag (s.reg x) (s.reg y)) x ((sum9 (s.reg x) (s.reg y)).setWidth 8))

/-- SUB Vx,Vy (R157): VF = 1 exactly when Vx > Vy. -/
def execSubReg (x y : RegIx) (s : State) : Host.Outcome State Fault Refusal :=
  .next (s.setFlagThenReg (greaterFlag (s.reg x) (s.reg y)) x (s.reg x - s.reg y))

/-- SHR Vx (R158): logical, by one; Y plays no part. -/
def execShr (x : RegIx) (s : State) : Host.Outcome State Fault Refusal :=
  .next (s.setFlagThenReg (lowBitFlag (s.reg x)) x (s.reg x >>> 1))

/-- SUBN Vx,Vy (R159): VF = 1 exactly when Vy > Vx. -/
def execSubnReg (x y : RegIx) (s : State) : Host.Outcome State Fault Refusal :=
  .next (s.setFlagThenReg (greaterFlag (s.reg y) (s.reg x)) x (s.reg y - s.reg x))

/-- SHL Vx (R160): by one, low 8 bits kept; Y plays no part. -/
def execShl (x : RegIx) (s : State) : Host.Outcome State Fault Refusal :=
  .next (s.setFlagThenReg (highBitFlag (s.reg x)) x (s.reg x <<< 1))

/-- RND Vx,byte (R161): the random input of the step, masked; one byte is consumed. -/
def execRnd (x : RegIx) (kk : Byte) (s : State) : Host.Outcome State Fault Refusal :=
  .next ((s.setReg x (s.rnd &&& kk)).consumeDraw)

end Sys2Proof.Machine
end

