-- ==== Sys2Proof/Machine/Operands.lean ====
section
/-! DEFINITION. The operand forms: how a field or a register value becomes what an instruction uses (spec/30_encoding.md R87,
43_index_memory.md R184, 45_keypad_timers.md R225, R226). -/

namespace Sys2Proof.Machine

/-- zext_16(NNN) (R87). -/
def zextAddr (nnn : Addr) : Word := nnn.setWidth 16

/-- zext_16(V[x]) (R87). -/
def zextByte (b : Byte) : Word := b.setWidth 16

/-- EA(k) = I + k, formed without truncation (R184); the translator reduces it. -/
def State.ea (s : State) (k : Nat) : Nat := s.index.toNat + k

/-- KEY[k] (R27). -/
def State.key (s : State) (k : Nat) : Bool := s.keys.getLsbD k

/-- pressed(v) (R226): a value above 15 names no key and counts as not pressed. -/
def State.pressed (s : State) (v : Byte) : Bool := decide (v.toNat ≤ 15) && s.key v.toNat

/-- The least pressed key, if any is pressed (R225: keys 0 to 15 scanned in ascending order). -/
def State.lowestKey (s : State) : Option Nat := (List.range 16).find? fun k => s.key k

/-- The decimal digits of LD B, hundreds, tens and ones (R183). -/
def bcdDigits (a : Byte) : Byte × Byte × Byte :=
  (BitVec.ofNat 8 (a.toNat / 100), BitVec.ofNat 8 (a.toNat / 10 % 10), BitVec.ofNat 8 (a.toNat % 10))

end Sys2Proof.Machine
end

