-- ==== Sys2Proof/Machine/Display.lean ====
section
/-! DEFINITION. CLS and the blitter (spec/44_display.md). -/

namespace Sys2Proof.Machine

/-- CLS (R200): every pixel clear; VF is not written. -/
def execCls (s : State) : Host.Outcome State Fault Refusal := .next (s.setFb 0)

/-- One sprite bit 1 at (px, py): off the grid it is dropped (R201), on it the pixel is inverted, and a pixel that was set raises
the collision flag (R202). The pair is the display and the flag so far. -/
def plot (px py : Nat) (acc : Framebuffer × Bool) : Framebuffer × Bool :=
  if px ≤ 63 ∧ py ≤ 31 then (Framebuffer.toggle acc.1 px py, acc.2 || Framebuffer.pixel acc.1 px py) else acc

/-- The first `n` columns of one sprite row, left to right; the pixel at column c is bit 7 - c (R201). -/
def blitRow (row : Byte) (x0 py : Nat) (acc : Framebuffer × Bool) : Nat → Framebuffer × Bool
  | 0 => acc
  | c + 1 =>
    if row.getLsbD (7 - c) then plot (x0 + c) py (blitRow row x0 py acc c) else blitRow row x0 py acc c

/-- The first `n` rows of the sprite at I, top to bottom (R202). -/
def State.blitRows (s : State) (x0 y0 : Nat) : Nat → Framebuffer × Bool
  | 0 => (s.fb, false)
  | r + 1 => blitRow (s.memRead (s.ea r)) x0 (y0 + r) (s.blitRows x0 y0 r) 8

/-- DRW Vx,Vy,n (R202): start (Vx mod 64, Vy mod 32) read before VF is written; VF = collision, always written, last. -/
def execDrw (x y : RegIx) (n : Nibble) (s : State) : Host.Outcome State Fault Refusal :=
  let drawn := s.blitRows ((s.reg x).toNat % 64) ((s.reg y).toNat % 32) n.toNat
  .next ((s.setFb drawn.1).setReg VF (flagByte drawn.2))

end Sys2Proof.Machine
end

