-- ==== Sys2Proof/Machine/Flow.lean ====
section
/-! DEFINITION. Control transfer (spec/41_flow.md). The pc a meaning reads is already advanced past the instruction (R112). -/

namespace Sys2Proof.Machine

/-- RET (R130). -/
def execRet (s : State) : Host.Outcome State Fault Refusal := .next s.returnToCaller

/-- JP addr (R131). -/
def execJp (nnn : Addr) (s : State) : Host.Outcome State Fault Refusal := .next (s.setPc (zextAddr nnn))

/-- CALL addr (R132). -/
def execCall (nnn : Addr) (s : State) : Host.Outcome State Fault Refusal := .next (s.callTo (zextAddr nnn))

/-- SE Vx,byte (R133). -/
def execSeByte (x : RegIx) (kk : Byte) (s : State) : Host.Outcome State Fault Refusal := .next (s.skipIf (s.reg x == kk))

/-- SNE Vx,byte (R134). -/
def execSneByte (x : RegIx) (kk : Byte) (s : State) : Host.Outcome State Fault Refusal := .next (s.skipIf (s.reg x != kk))

/-- SE Vx,Vy (R135). -/
def execSeReg (x y : RegIx) (s : State) : Host.Outcome State Fault Refusal := .next (s.skipIf (s.reg x == s.reg y))

/-- SNE Vx,Vy (R136). -/
def execSneReg (x y : RegIx) (s : State) : Host.Outcome State Fault Refusal := .next (s.skipIf (s.reg x != s.reg y))

/-- JP V0,addr (R138): the register is always V0; the 16-bit sum is kept whole. -/
def execJpV0 (nnn : Addr) (s : State) : Host.Outcome State Fault Refusal :=
  .next (s.setPc (zextByte (s.reg 0) + zextAddr nnn))

end Sys2Proof.Machine
end

