-- ==== Sys2Proof/Machine/IndexMemory.lean ====
section
/-! DEFINITION. The index register and memory (spec/43_index_memory.md). None of these changes I but the three that name it (R184). -/

namespace Sys2Proof.Machine

/-- LD I,addr (R180). -/
def execLdI (nnn : Addr) (s : State) : Host.Outcome State Fault Refusal := .next (s.setIndex (zextAddr nnn))

/-- ADD I,Vx (R181): modulo 65536, no flag. -/
def execAddIVx (x : RegIx) (s : State) : Host.Outcome State Fault Refusal := .next (s.setIndex (s.index + zextByte (s.reg x)))

/-- LD F,Vx (R182): font base + 5 * Vx, the whole of Vx. -/
def execLdFVx (x : RegIx) (s : State) : Host.Outcome State Fault Refusal :=
  .next (s.setIndex (0x50#16 + 5 * zextByte (s.reg x)))

/-- Three digits stored at I, I + 1, I + 2, in that order (R183). -/
def State.storeDigits (s : State) (d : Byte × Byte × Byte) : State :=
  ((s.memWrite (s.ea 0) d.1).memWrite (s.ea 1) d.2.1).memWrite (s.ea 2) d.2.2

/-- LD B,Vx (R183). -/
def execLdBVx (x : RegIx) (s : State) : Host.Outcome State Fault Refusal := .next (s.storeDigits (bcdDigits (s.reg x)))

/-- The first `n` registers stored at I, I + 1, ..., ascending (R185). -/
def State.storeRegs (s : State) : Nat → State
  | 0 => s
  | k + 1 => (s.storeRegs k).memWrite (s.ea k) (s.reg (BitVec.ofNat 4 k))

/-- LD [I],Vx (R185): V[0]..V[x]. -/
def execLdMemVx (x : RegIx) (s : State) : Host.Outcome State Fault Refusal := .next (s.storeRegs (x.toNat + 1))

/-- The first `n` registers loaded from I, I + 1, ..., ascending (R186). -/
def State.loadRegs (s : State) : Nat → State
  | 0 => s
  | k + 1 => (s.loadRegs k).setReg (BitVec.ofNat 4 k) (s.memRead (s.ea k))

/-- LD Vx,[I] (R186): V[0]..V[x]. -/
def execLdVxMem (x : RegIx) (s : State) : Host.Outcome State Fault Refusal := .next (s.loadRegs (x.toNat + 1))

end Sys2Proof.Machine
end

