-- ==== Sys2Proof/Machine/KeypadTimers.lean ====
section
/-! DEFINITION. The keypad and the timers (spec/45_keypad_timers.md). The tick of R114 follows each, in `commit`. -/

namespace Sys2Proof.Machine

/-- SKP Vx (R220). -/
def execSkp (x : RegIx) (s : State) : Host.Outcome State Fault Refusal := .next (s.skipIf (s.pressed (s.reg x)))

/-- SKNP Vx (R221). -/
def execSknp (x : RegIx) (s : State) : Host.Outcome State Fault Refusal := .next (s.skipIf (!s.pressed (s.reg x)))

/-- LD Vx,DT (R222). -/
def execLdVxDT (x : RegIx) (s : State) : Host.Outcome State Fault Refusal := .next (s.setReg x s.dt)

/-- LD DT,Vx (R223). -/
def execLdDTVx (x : RegIx) (s : State) : Host.Outcome State Fault Refusal := .next (s.setDT (s.reg x))

/-- LD ST,Vx (R224). -/
def execLdSTVx (x : RegIx) (s : State) : Host.Outcome State Fault Refusal := .next (s.setST (s.reg x))

/-- LD Vx,K (R225): the least pressed key, or the pc back onto this instruction. -/
def execLdVxK (x : RegIx) (s : State) : Host.Outcome State Fault Refusal :=
  match s.lowestKey with
  | some k => .next (s.setReg x (BitVec.ofNat 8 k))
  | none => .next (s.setPc (s.pc - 2))

end Sys2Proof.Machine
end

