-- ==== Sys2Proof/Machine/Step.lean ====
section
/-! DEFINITION. One step (spec/40_step_cycle.md R110): fetch, advance, execute, tick. -/

namespace Sys2Proof.Machine

/-- One step request. A halted CORE does nothing and its step is a fault outcome (R117). An unrecognised word executes nothing:
the pc advances and the timers tick (R115). -/
def step (s : State) : Host.Outcome State Fault Refusal :=
  match s.fault with
  | .stackOverflow => .fault .haltedStackOverflow
  | .stackUnderflow => .fault .haltedStackUnderflow
  | .running =>
    match decodeWord s.fetchWord with
    | .unrecognised _ => .next (s.commit s.advance)
    | .instr i =>
      match exec i s.advance with
      | .next t => .next (s.commit t)
      | .fault r => .fault r
      | .refused r => .refused r

/-- `s` with the table word `w` of `nbits` bits stored big-endian at the pc, where `step` fetches (R54, R111); every other
bit of the two bytes is 0. -/
def State.withFetchWord (s : State) (nbits w : Nat) : State :=
  let bits := w % 2 ^ nbits
  (s.memWrite s.pc.toNat (BitVec.ofNat 8 (bits / 256))).memWrite (s.pc.toNat + 1) (BitVec.ofNat 8 bits)

end Sys2Proof.Machine
end

