-- ==== Sys2Proof/WellFormed.lean ====
section
/-! DEFINITION. The checks on what comes from outside the machine: a number meant for an instruction field (30_encoding.md R81, R87) and a
program image (20_memory.md R62). An `Instr` holds its operands in types of the fields' own widths, so every `Instr` passes; the checks
bite on plain numbers, before they become operands. -/

namespace Sys2Proof

/-- X and Y are register indices 0..15 (R87). -/
def regFits (n : Nat) : Bool := n < 16

/-- KK is 0..255 (R87). -/
def byteFits (n : Nat) : Bool := n < 256

/-- NNN is 0..4095 (R87). -/
def addrFits (n : Nat) : Bool := n < 4096

/-- N is 0..15 (R87). -/
def nibbleFits (n : Nat) : Bool := n < 16

/-- An image is at most 3584 bytes long (R62). -/
def imageFits (image : List Byte) : Bool := image.length ≤ Config.maxImage

/-- Every operand fits the field that encodes it (R81, R82). -/
def Instr.wellFormed : Instr → Bool
  | .cls => true
  | .ret => true
  | .jp nnn => addrFits nnn.toNat
  | .call nnn => addrFits nnn.toNat
  | .seByte x kk => regFits x.toNat && byteFits kk.toNat
  | .sneByte x kk => regFits x.toNat && byteFits kk.toNat
  | .seReg x y => regFits x.toNat && regFits y.toNat
  | .sneReg x y => regFits x.toNat && regFits y.toNat
  | .ldByte x kk => regFits x.toNat && byteFits kk.toNat
  | .addByte x kk => regFits x.toNat && byteFits kk.toNat
  | .ldReg x y => regFits x.toNat && regFits y.toNat
  | .orReg x y => regFits x.toNat && regFits y.toNat
  | .andReg x y => regFits x.toNat && regFits y.toNat
  | .xorReg x y => regFits x.toNat && regFits y.toNat
  | .addReg x y => regFits x.toNat && regFits y.toNat
  | .subReg x y => regFits x.toNat && regFits y.toNat
  | .shr x => regFits x.toNat
  | .subnReg x y => regFits x.toNat && regFits y.toNat
  | .shl x => regFits x.toNat
  | .ldI nnn => addrFits nnn.toNat
  | .jpV0 nnn => addrFits nnn.toNat
  | .rnd x kk => regFits x.toNat && byteFits kk.toNat
  | .drw x y n => regFits x.toNat && regFits y.toNat && nibbleFits n.toNat
  | .skp x => regFits x.toNat
  | .sknp x => regFits x.toNat
  | .ldVxDT x => regFits x.toNat
  | .ldDTVx x => regFits x.toNat
  | .ldSTVx x => regFits x.toNat
  | .addIVx x => regFits x.toNat
  | .ldFVx x => regFits x.toNat
  | .ldBVx x => regFits x.toNat
  | .ldMemVx x => regFits x.toNat
  | .ldVxMem x => regFits x.toNat
  | .ldVxK x => regFits x.toNat

end Sys2Proof
end

