-- ==== Sys2Proof/Machine/HostPort.lean ====
section
/-! DEFINITION. What the host does between steps (spec/10_state.md R32, R35; 00_scope.md R7): reset, key writes, image load
(whole, or byte by byte on the `load` port), and the two outputs. None of it is part of `step`. -/

namespace Sys2Proof.Machine

/-- The machine right after reset with any FONT_TABLE (R36, R63): `State.reset` with the table's 80 bytes at [0x050, 0x0A0). -/
def State.resetWith (font : FontTable) : State := State.reset.storeBytes Config.fontBase font.toList

/-- reset (R270) of a machine whose FONT_TABLE is `font`: every piece of the CORE's state to its value of R36. The keys are the host's
and keep their state; the sequence of random bytes is the host's and goes on. -/
def State.hostReset (s : State) (font : FontTable) : State := { State.resetWith font with keys := s.keys, draws := s.draws }

/-- One key state written (R27): KEY[k] <- pressed. -/
def State.hostSetKey (s : State) (k : Fin 16) (pressed : Bool) : State :=
  { s with keys := if pressed then s.keys ||| BitVec.twoPow 16 k.val else s.keys &&& ~~~(BitVec.twoPow 16 k.val) }

/-- What the host hears of a load (R62, R252). -/
inductive LoadResult where
  /-- The bytes are written. -/
  | loaded (s : State)
  /-- The image is longer than 3584 bytes; nothing is written. -/
  | tooLarge
  /-- The byte lies below the program image, where the host has no write access (R62); nothing is written (log entry 11). -/
  | noAccess
  deriving DecidableEq, Repr

/-- Image load (R62): the bytes from 0x200 up; an image of more than 3584 bytes is refused whole. -/
def State.hostLoad (s : State) (image : List Byte) : LoadResult :=
  if imageFits image then .loaded (s.storeBytes Config.progBase image) else .tooLarge

/-- The `load` port (R35), one byte per write: MEM[addr] <- data, in the program image's region [0x200, 0x1000) alone (R62; DESIGN CHOICE
below it, log entry 11). -/
def State.loadPort (s : State) (addr : Addr) (data : Byte) : LoadResult :=
  if Config.progBase ≤ addr.toNat then .loaded (s.memWrite addr.toNat data) else .noAccess

/-- Writes on the `load` port in a row, from an address up (R35, R62). -/
def State.loadPortRow (s : State) (addr : Addr) : List Byte → LoadResult
  | [] => .loaded s
  | b :: rest =>
    match s.loadPort addr b with
    | .loaded t => t.loadPortRow (addr + 1) rest
    | .tooLarge => .tooLarge
    | .noAccess => .noAccess

/-- The `fb` port (R35): bit 64*y + x is FB[x, y]. -/
def State.fbPort (s : State) : BitVec 2048 := s.fb

/-- The `fault` port (R29, R35). -/
def State.faultPort (s : State) : BitVec 2 :=
  match s.fault with
  | .running => 0
  | .stackOverflow => 1
  | .stackUnderflow => 2

end Sys2Proof.Machine
end

