-- ==== Sys2Proof/Safety.lean ====
section
/-! DEFINITION. The terms claims are stated in: the invariant, what a run that has not faulted is, what two states share, and a sprite's
pixels read off the screen. -/

namespace Sys2Proof.Machine

/-- The invariant of the state: memory keeps its canonical form. Every other bound the spec sets (SP in 0..16, FAULT in 0..2, the
widths) is carried by a type. -/
abbrev State.Inv (s : State) : Prop := Memory.wf s.mem = true

/-- The CORE runs: the fault latch is clear (spec/10_state.md R29). -/
abbrev State.Running (s : State) : Prop := s.fault = .running

/-- The next step of a running CORE executes `i` (spec/40_step_cycle.md R111, R113). -/
abbrev State.Fetches (s : State) (i : Instr) : Prop := decodeWord s.fetchWord = .instr i

/-- Every word that `mask` and `value` select decodes to the instruction `f` reads from its fields: the "Encoding" line of an
instruction's rule (spec/30_encoding.md R84). -/
abbrev Selects (mask value : Word) (f : Word → Instr) : Prop := ∀ w : Word, w &&& mask = value → decodeWord w = .instr (f w)

/-! What `t` shares with `s`. -/

/-- Every byte of memory. -/
abbrev SameMemory (s t : State) : Prop := ∀ a, t.memRead a = s.memRead a

/-- Every general register. -/
abbrev SameRegs (s t : State) : Prop := ∀ r, t.reg r = s.reg r

/-- SP and every stack slot. -/
abbrev SameStack (s t : State) : Prop := t.sp = s.sp ∧ t.stack = s.stack

/-- DT and ST. -/
abbrev SameTimers (s t : State) : Prop := t.dt = s.dt ∧ t.st = s.st

/-- The key states and the count of random bytes consumed. -/
abbrev SameInputs (s t : State) : Prop := t.keys = s.keys ∧ t.draws = s.draws

/-- The sprite of `n` rows at I, placed at (x0, y0), has a 1 bit at the screen position (px, py) (spec/44_display.md R201: row r is the
byte at I + r, column offset c is bit 7 - c). -/
def State.spriteBit (s : State) (x0 y0 n px py : Nat) : Bool :=
  decide (x0 ≤ px ∧ px < x0 + 8 ∧ y0 ≤ py ∧ py < y0 + n) &&
    (s.memRead (s.index.toNat + (py - y0))).getLsbD (7 - (px - x0))

end Sys2Proof.Machine
end

