-- ==== Sys2Proof/Certificates/Slice0/Obligations.lean ====
section
/-! DEFINITION. The statements for the provers. Rules R<n> are those of spec/; "log entry n" is notes/assumptions/n.md. A statement whose
docstring says DERIVED rests on an inference or a decision that the spec marks as its own, or on the model's choice, and names it. -/

open Sys2Proof Sys2Proof.Machine

/-! ## Encoding (30_encoding.md) -/

/-- Words written out from the spec's encodings, one or more per family, decode to their instructions; 0x801F is unrecognised. -/
def Obligations.SpecWordsDecodeToTheirInstructions : Prop :=
  decodeBytes 0x60 0x05 = .instr (.ldByte 0 0x05) ∧ decodeBytes 0x70 0x05 = .instr (.addByte 0 0x05) ∧
  decodeBytes 0x00 0xE0 = .instr .cls ∧ decodeBytes 0x00 0x00 = .instr .cls ∧ decodeBytes 0x0A 0xBE = .instr .ret ∧
  decodeBytes 0x12 0x34 = .instr (.jp 0x234) ∧ decodeBytes 0x81 0x25 = .instr (.subReg 1 2) ∧
  decodeBytes 0x51 0x21 = .instr (.seReg 1 2) ∧ decodeBytes 0xA3 0x00 = .instr (.ldI 0x300) ∧
  decodeBytes 0xD0 0x15 = .instr (.drw 0 1 5) ∧ decodeBytes 0xE1 0x9E = .instr (.skp 1) ∧
  decodeBytes 0xF2 0x0A = .instr (.ldVxK 2) ∧ decodeBytes 0xF2 0x55 = .instr (.ldMemVx 2) ∧
  decodeBytes 0x80 0x1F = .unrecognised 0x800F

/-- The bytes of every well-formed instruction decode to it (R82, R84, R91). DERIVED: 30 of the 34 numbers are the spec's general
knowledge (log entry 8). -/
def Obligations.DecodeOfEncodeIsTheInstruction : Prop :=
  ∀ i : Instr, i.wellFormed = true → decodeBytes (encodeBytes i).1 (encodeBytes i).2 = .instr i

/-- A word that decodes to an instruction differs from that instruction's encoding only in bits the instruction ignores (R85). -/
def Obligations.DecodedWordIsTheEncodingOffIgnoredBits : Prop :=
  ∀ (w : Word) (i : Instr), decodeWord w = .instr i → encode i &&& usedBits i = w &&& usedBits i

/-- The decoder and the opcode map agree (R84): a word decodes to an instruction of a mnemonic exactly when it selects a row of that
mnemonic, and no word selects two rows. -/
def Obligations.DecoderAgreesWithTheOpcodeMap : Prop :=
  ∀ w : Word,
    (∀ i, decodeWord w = .instr i → ∃ r ∈ opcodeRows, rowSelects w r = true ∧ r.mnemonic = mnemonicOf i) ∧
    (∀ r ∈ opcodeRows, rowSelects w r = true → ∃ i, decodeWord w = .instr i ∧ mnemonicOf i = r.mnemonic) ∧
    (∀ r ∈ opcodeRows, ∀ r' ∈ opcodeRows, rowSelects w r = true → rowSelects w r' = true → r = r')

/-- Two words with the same dispatch key select the same instruction, or are both unrecognised (R83). -/
def Obligations.SameKeySelectsTheSameInstruction : Prop :=
  ∀ w w' : Word, dispatchKey w = dispatchKey w' →
    (∃ i i', decodeWord w = .instr i ∧ decodeWord w' = .instr i' ∧ mnemonicOf i = mnemonicOf i') ∨
    (decodeWord w = .unrecognised (dispatchKey w) ∧ decodeWord w' = .unrecognised (dispatchKey w'))

/-- The unrecognised words are exactly those of R86's four conditions. -/
def Obligations.UnrecognisedWordsAreExactlyTheListedOnes : Prop :=
  ∀ w : Word, decodeWord w = .unrecognised (dispatchKey w) ↔
    ((opField w = 0x0 ∧ nField w ≠ 0x0 ∧ nField w ≠ 0xE) ∨
     (opField w = 0x8 ∧ nField w ∈ [0x8#4, 0x9#4, 0xA#4, 0xB#4, 0xC#4, 0xD#4, 0xF#4]) ∨
     (opField w = 0xE ∧ kkField w ≠ 0x9E ∧ kkField w ≠ 0xA1) ∨
     (opField w = 0xF ∧ kkField w ∉ [0x07#8, 0x0A#8, 0x15#8, 0x18#8, 0x1E#8, 0x29#8, 0x33#8, 0x55#8, 0x65#8]))

/-! ## The step (40_step_cycle.md, 60_exceptions.md) -/

/-- When the bytes at the pc decode to a well-formed instruction `i`, `exec i` after the advance of the pc by 2 answers a next state, and
the step of a running CORE is that, followed by the tick of both timers; where the instruction raised, it is the state before the step with
the latch set (R110, R112, R114, R244). DERIVED for the last clause: decision D2 and log entry 3. -/
def Obligations.StepRunsTheDecodedInstruction : Prop :=
  ∀ (s : State) (i : Instr), s.Running → s.Fetches i → i.wellFormed = true →
    s.advance = { s with pc := s.pc + 2 } ∧
    ∃ t, exec i s.advance = .next t ∧
      step s = .next (if t.fault = .running then { t with dt := tickDown t.dt, st := tickDown t.st }
        else { s with fault := t.fault })

/-- An unrecognised word's whole effect is the advance of the pc by 2 modulo 65536 and the tick of both timers (R115). -/
def Obligations.UnrecognisedWordOnlyAdvancesAndTicks : Prop :=
  ∀ (s : State) (k : Word), s.Running → decodeWord s.fetchWord = .unrecognised k →
    ∃ t, step s = .next t ∧ t.pc.toNat = (s.pc.toNat + 2) % 65536 ∧
      t.dt.toNat = s.dt.toNat - 1 ∧ t.st.toNat = s.st.toNat - 1 ∧
      t = { s with pc := t.pc, dt := t.dt, st := t.st }

/-- The fetched word is the byte at pc mod 4096 in bits 15..8 and the byte at (pc + 1) mod 4096 in bits 7..0 (R54, R111). DERIVED: the
wrap is decision D1. -/
def Obligations.FetchIsBigEndianAndWraps : Prop :=
  ∀ s : State, s.fetchWord.toNat =
    256 * (s.mem.read (s.pc.toNat % 4096)).toNat + (s.mem.read ((s.pc.toNat + 1) % 4096)).toNat

/-- A completed step lowers each non-zero timer by one after the instruction, so a value written in the step is lowered too (R114, R223,
R224). DERIVED: R114 marks its readings of the key wait and of faulting steps. -/
def Obligations.CompletedStepTicksBothTimers : Prop :=
  ∀ s t : State, step s = .next t → t.Running →
    ((∀ x, ¬ s.Fetches (.ldDTVx x)) → t.dt.toNat = s.dt.toNat - 1) ∧
    (∀ x, s.Fetches (.ldDTVx x) → t.dt.toNat = (s.reg x).toNat - 1) ∧
    ((∀ x, ¬ s.Fetches (.ldSTVx x)) → t.st.toNat = s.st.toNat - 1) ∧
    (∀ x, s.Fetches (.ldSTVx x) → t.st.toNat = (s.reg x).toNat - 1)

/-- The two faults are precise (R241, R244): a CALL with SP = 16 and a RET with SP = 0 leave the whole state as it was, except the
latch. DERIVED: decision D2; that the raise is a next state is log entry 3. -/
def Obligations.StackLimitFaultsArePrecise : Prop :=
  ∀ s : State, s.Running →
    (∀ nnn, s.Fetches (.call nnn) → s.sp.val = 16 → step s = .next { s with fault := .stackOverflow }) ∧
    (s.Fetches .ret → s.sp.val = 0 → step s = .next { s with fault := .stackUnderflow })

/-- A halted CORE takes no step: every step request is the fault outcome of its latch (R117, R245). DERIVED: decision D2, log entry 3. -/
def Obligations.HaltedCoreTakesNoStep : Prop :=
  ∀ s : State, (s.fault = .stackOverflow → step s = .fault .haltedStackOverflow) ∧
    (s.fault = .stackUnderflow → step s = .fault .haltedStackUnderflow)

/-- No other instruction and no other condition raises a fault (R241), and a step that raises changes nothing but the latch. DERIVED:
decision D2, log entry 3. -/
def Obligations.OnlyTheStackLimitsRaise : Prop :=
  ∀ s t : State, step s = .next t → ¬ t.Running →
    t = { s with fault := t.fault } ∧
    ((t.fault = .stackOverflow ∧ s.sp.val = 16 ∧ ∃ nnn, s.Fetches (.call nnn)) ∨
     (t.fault = .stackUnderflow ∧ s.sp.val = 0 ∧ s.Fetches .ret))

/-- A step is total (R116): every instruction in every state, and every step of a running CORE, answers a next state. DERIVED: the
raise is a next state by log entry 3. -/
def Obligations.EveryRunningStepAnswersANextState : Prop :=
  (∀ (i : Instr) (s : State), ∃ t, exec i s = .next t) ∧ ∀ s : State, s.Running → ∃ t, step s = .next t

/-! ## Invariants and whole-machine rules -/

/-- Every step keeps memory in its canonical form: addresses rising, below 4096, no entry equal to the reset contents. DERIVED: the
form is the model's. -/
def Obligations.StepKeepsMemoryCanonical : Prop :=
  ∀ s t : State, s.Inv → step s = .next t → t.Inv

/-- Memory right after reset is in its canonical form, whatever the FONT_TABLE. DERIVED: the form is the model's. -/
def Obligations.ResetMemoryIsCanonical : Prop := State.reset.Inv ∧ ∀ font, (State.resetWith font).Inv

/-- Reset with any FONT_TABLE, a key write, an image load and a write on the `load` port by the host keep memory in its canonical form.
DERIVED: the form is the model's. -/
def Obligations.HostMovesKeepMemoryCanonical : Prop :=
  ∀ s : State, s.Inv →
    (∀ font, (s.hostReset font).Inv) ∧ (∀ k pressed, (s.hostSetKey k pressed).Inv) ∧
    (∀ image t, s.hostLoad image = .loaded t → t.Inv) ∧ (∀ addr data t, s.loadPort addr data = .loaded t → t.Inv)

/-- The form is canonical: two memories in it that read alike at every address are the same list. DERIVED: the form is the model's. -/
def Obligations.CanonicalMemoriesReadingAlikeAreEqual : Prop :=
  ∀ m m' : Memory, m.wf = true → m'.wf = true → (∀ a < 4096, m.read a = m'.read a) → m = m'

/-- Each piece of state is written only by the instructions that its own rule names (R32; for the pc R23); the CORE never writes the keys
(R27), and a step does not either. The pc is meant after its advance, which every step makes. DERIVED: decision D11 (no effect beyond
the listed ones); `draws` is the model's own (log entry 2). -/
def Obligations.EachPieceOfStateHasItsWriters : Prop :=
  (∀ (i : Instr) (s t : State), exec i s = .next t →
    t.keys = s.keys ∧
    (t.pc ≠ s.pc →
      i = .ret ∨ (∃ nnn, i = .jp nnn ∨ i = .call nnn ∨ i = .jpV0 nnn) ∨ (∃ x kk, i = .seByte x kk ∨ i = .sneByte x kk) ∨
      (∃ x y, i = .seReg x y ∨ i = .sneReg x y) ∨ ∃ x, i = .skp x ∨ i = .sknp x ∨ i = .ldVxK x) ∧
    (∀ r, t.reg r ≠ s.reg r →
      (∃ kk, i = .ldByte r kk ∨ i = .addByte r kk ∨ i = .rnd r kk) ∨
      (∃ y, i = .ldReg r y ∨ i = .orReg r y ∨ i = .andReg r y ∨ i = .xorReg r y ∨
        i = .addReg r y ∨ i = .subReg r y ∨ i = .subnReg r y) ∨
      i = .shr r ∨ i = .shl r ∨ i = .ldVxDT r ∨ i = .ldVxK r ∨
      (∃ x : RegIx, r.toNat ≤ x.toNat ∧ i = .ldVxMem x) ∨
      (r = VF ∧ ((∃ x y, i = .addReg x y ∨ i = .subReg x y ∨ i = .subnReg x y ∨ ∃ n, i = .drw x y n) ∨
        ∃ x, i = .shr x ∨ i = .shl x))) ∧
    (t.fb ≠ s.fb → i = .cls ∨ ∃ x y n, i = .drw x y n) ∧
    (¬ SameStack s t → i = .ret ∨ ∃ nnn, i = .call nnn) ∧
    (t.fault ≠ s.fault → i = .ret ∨ ∃ nnn, i = .call nnn) ∧
    (t.dt ≠ s.dt → ∃ x, i = .ldDTVx x) ∧
    (t.st ≠ s.st → ∃ x, i = .ldSTVx x) ∧
    (t.index ≠ s.index → (∃ nnn, i = .ldI nnn) ∨ (∃ x, i = .addIVx x) ∨ ∃ x, i = .ldFVx x) ∧
    (¬ SameMemory s t → (∃ x, i = .ldBVx x) ∨ ∃ x, i = .ldMemVx x) ∧
    (t.draws ≠ s.draws → ∃ x kk, i = .rnd x kk)) ∧
  ∀ s t : State, step s = .next t → t.keys = s.keys

/-- VF changes only under the six instructions that write it as a flag, or under one that names it as its destination, or as the last
register of LD VF,[I] (R21). DERIVED: decision D11. -/
def Obligations.VFChangesOnlyAsFlagOrDestination : Prop :=
  ∀ (i : Instr) (s t : State), exec i s = .next t → t.reg VF ≠ s.reg VF →
    ((∃ x y, i = .addReg x y ∨ i = .subReg x y ∨ i = .subnReg x y ∨ ∃ n, i = .drw x y n) ∨ (∃ x, i = .shr x ∨ i = .shl x)) ∨
    ((∃ kk, i = .ldByte VF kk ∨ i = .addByte VF kk ∨ i = .rnd VF kk) ∨
     (∃ y, i = .ldReg VF y ∨ i = .orReg VF y ∨ i = .andReg VF y ∨ i = .xorReg VF y) ∨
     i = .ldVxDT VF ∨ i = .ldVxMem VF ∨ i = .ldVxK VF)

/-! ## Reset and the host (10_state.md R36, 20_memory.md R62, 70_reset_and_hazards.md R270) -/

/-- The state right after reset with any FONT_TABLE (R36, R63), and `State.reset` is the one with the default table. DERIVED: I, SP and
FAULT are decisions D17 and D2; that the table is an argument is D6, its default log entry 4. The keys, which reset does not touch, are not
named. -/
def Obligations.ResetLeavesTheListedValues : Prop :=
  State.reset = State.resetWith defaultFont ∧
  ∀ (font : FontTable) (s : State), s = State.resetWith font →
    (∀ r, s.reg r = 0) ∧ s.index = 0 ∧ s.pc = 0x200 ∧ s.sp.val = 0 ∧ (∀ k : Fin 16, s.stack[k] = 0) ∧ s.dt = 0 ∧ s.st = 0 ∧
    (∀ x y, s.fb.pixel x y = false) ∧ s.fault = .running ∧
    (∀ a < 4096, ¬ (0x50 ≤ a ∧ a < 0xA0) → s.memRead a = 0) ∧
    ∀ k : Fin 80, s.memRead (0x50 + k.val) = font[k]

/-- What the host does and sees beside a load. Its reset, from any state, halted or not, gives every piece of the CORE's state its reset
value, FONT_TABLE being an argument, and leaves the host's keys alone (R270). Its key write sets KEY[k] and leaves the other fifteen keys
and the rest of the state alone (R27). The `fb` port's bit 64*y + x is FB[x, y], and the `fault` port shows 0, 1 or 2 (R29, R35). DERIVED:
decisions D2, D6, D13 and D17; that the sequence of random bytes goes on is log entry 2, that a key is written in any state log entry 6. -/
def Obligations.HostResetKeyWriteAndPorts : Prop :=
  ∀ s : State,
    (∀ font, s.hostReset font = { State.resetWith font with keys := s.keys, draws := s.draws }) ∧
    (∀ (k : Fin 16) (pressed : Bool), ∃ t, s.hostSetKey k pressed = t ∧ t = { s with keys := t.keys } ∧
      t.keys.getLsbD k.val = pressed ∧ ∀ j : Fin 16, j ≠ k → t.keys.getLsbD j.val = s.keys.getLsbD j.val) ∧
    (∀ x ≤ 63, ∀ y ≤ 31, s.fbPort.getLsbD (64 * y + x) = s.fb.pixel x y) ∧
    (s.fault = .running → s.faultPort.toNat = 0) ∧ (s.fault = .stackOverflow → s.faultPort.toNat = 1) ∧
    (s.fault = .stackUnderflow → s.faultPort.toNat = 2)

/-- An image of at most 3584 bytes is stored byte for byte from 0x200 and nothing else changes; a longer one is refused whole (R62). A write
on the `load` port sets one byte from 0x200 up and nothing else, below it none, and a row of them from 0x200 up is the load of the image (R35).
DERIVED: the refusal of a long image is decision D14, the port D13; that a load is allowed in every state, not only after reset, is the
model's choice (log entry 6), and so is the refusal of a byte below 0x200 (log entry 11). -/
def Obligations.HostLoadWritesExactlyTheImage : Prop :=
  ∀ (s : State) (image : List Byte),
    (image.length ≤ 3584 → ∃ t, s.hostLoad image = .loaded t ∧ t = { s with mem := t.mem } ∧
      ∀ a < 4096, t.memRead a =
        if 0x200 ≤ a ∧ a < 0x200 + image.length then image.getD (a - 0x200) 0 else s.memRead a) ∧
    (3584 < image.length → s.hostLoad image = .tooLarge) ∧
    (∀ (addr : Addr) (data : Byte),
      (0x200 ≤ addr.toNat → ∃ t, s.loadPort addr data = .loaded t ∧ t = { s with mem := t.mem } ∧
        ∀ a < 4096, t.memRead a = if a = addr.toNat then data else s.memRead a) ∧
      (addr.toNat < 0x200 → s.loadPort addr data = .noAccess)) ∧
    (image.length ≤ 3584 → s.loadPortRow 0x200 image = s.hostLoad image)

/-! ## Control flow (41_flow.md). The pc of `s` is already advanced past the instruction (R112). -/

/-- JP addr and JP V0,addr set the pc, and nothing else changes; 1NNN and BNNN are their encodings (R131, R138). DERIVED: that the
16-bit sum is kept whole is decision D10; the opcode numbers are the spec's general knowledge (log entry 8). -/
def Obligations.JumpsSetThePc : Prop :=
  Selects 0xF000#16 0x1000#16 (fun w => .jp (nnnField w)) ∧
  Selects 0xF000#16 0xB000#16 (fun w => .jpV0 (nnnField w)) ∧
  ∀ (s : State) (nnn : Addr),
    (∃ t, exec (.jp nnn) s = .next t ∧ t.pc.toNat = nnn.toNat ∧ t = { s with pc := t.pc }) ∧
    (∃ t, exec (.jpV0 nnn) s = .next t ∧ t.pc.toNat = (s.reg 0).toNat + nnn.toNat ∧ t = { s with pc := t.pc })

/-- A CALL with a free slot pushes the advanced pc and jumps; every other slot keeps its value (R132). DERIVED: that SP = 16 faults
instead is decision D2, see StackLimitFaultsArePrecise. -/
def Obligations.CallPushesTheAdvancedPc : Prop :=
  ∀ (s : State) (nnn : Addr) (h : s.sp.val < 16),
    ∃ t, exec (.call nnn) s = .next t ∧ t.pc.toNat = nnn.toNat ∧ t.sp.val = s.sp.val + 1 ∧
      t.stack[s.sp.val] = s.pc ∧ (∀ k : Fin 16, k.val ≠ s.sp.val → t.stack[k] = s.stack[k]) ∧
      t = { s with pc := t.pc, sp := t.sp, stack := t.stack }

/-- A RET with an occupied slot takes the pc from the last one, which keeps its value (R130, R24). DERIVED: that SP = 0 faults instead is
decision D2, see StackLimitFaultsArePrecise. -/
def Obligations.ReturnPopsTheLastSlot : Prop :=
  ∀ (s : State) (h : 0 < s.sp.val),
    ∃ t, exec .ret s = .next t ∧ t.sp.val = s.sp.val - 1 ∧ t.pc = s.stack[s.sp.val - 1] ∧
      t = { s with pc := t.pc, sp := t.sp }

/-- The four register and byte skips add 2 to the pc, modulo 65536, exactly when their condition holds, and change nothing else; 3XKK,
4XKK, 5XY? and 9XY? are their encodings (R133 to R137). DERIVED: the opcode numbers are the spec's general knowledge (log entry 8). -/
def Obligations.SkipsAddTwoWhenTheConditionHolds : Prop :=
  Selects 0xF000#16 0x3000#16 (fun w => .seByte (xField w) (kkField w)) ∧
  Selects 0xF000#16 0x4000#16 (fun w => .sneByte (xField w) (kkField w)) ∧
  Selects 0xF000#16 0x5000#16 (fun w => .seReg (xField w) (yField w)) ∧
  Selects 0xF000#16 0x9000#16 (fun w => .sneReg (xField w) (yField w)) ∧
  ∀ (s : State) (x y : RegIx) (kk : Byte),
    (∃ t, exec (.seByte x kk) s = .next t ∧ t = { s with pc := t.pc } ∧
      t.pc.toNat = if (s.reg x).toNat = kk.toNat then (s.pc.toNat + 2) % 65536 else s.pc.toNat) ∧
    (∃ t, exec (.sneByte x kk) s = .next t ∧ t = { s with pc := t.pc } ∧
      t.pc.toNat = if (s.reg x).toNat = kk.toNat then s.pc.toNat else (s.pc.toNat + 2) % 65536) ∧
    (∃ t, exec (.seReg x y) s = .next t ∧ t = { s with pc := t.pc } ∧
      t.pc.toNat = if (s.reg x).toNat = (s.reg y).toNat then (s.pc.toNat + 2) % 65536 else s.pc.toNat) ∧
    (∃ t, exec (.sneReg x y) s = .next t ∧ t = { s with pc := t.pc } ∧
      t.pc.toNat = if (s.reg x).toNat = (s.reg y).toNat then s.pc.toNat else (s.pc.toNat + 2) % 65536)

/-- A RET that is the very next step after a CALL returns to the instruction after the CALL, with SP as before the CALL (the property
R130 quotes). DERIVED: SP below 16 keeps decision D2 out. -/
def Obligations.CallThenReturnComesBack : Prop :=
  ∀ (s t : State) (nnn : Addr), s.Running → s.sp.val < 16 → s.Fetches (.call nnn) → step s = .next t → t.Fetches .ret →
    ∃ u, step t = .next u ∧ u.pc.toNat = (s.pc.toNat + 2) % 65536 ∧ u.sp = s.sp ∧ u.Running

/-- A JP to its own address with both timers at 0 is a fixed point of the step (R118). DERIVED: R118 is marked derived by the spec, from
R110, R114 and R131. -/
def Obligations.SelfJumpIsAFixedPoint : Prop :=
  ∀ (s : State) (nnn : Addr), s.Running → s.Fetches (.jp nnn) → s.pc.toNat = nnn.toNat → s.dt = 0 → s.st = 0 →
    step s = .next s

/-! ## Registers and the ALU (42_alu.md) -/

/-- LD Vx,byte and ADD Vx,byte (modulo 256, no flag) write Vx and nothing else, and 6XKK and 7XKK are their encodings (R150, R151). -/
def Obligations.LoadAndAddOfAByteWriteVx : Prop :=
  Selects 0xF000#16 0x6000#16 (fun w => .ldByte (xField w) (kkField w)) ∧
  Selects 0xF000#16 0x7000#16 (fun w => .addByte (xField w) (kkField w)) ∧
  ∀ (s : State) (x : RegIx) (kk : Byte),
    (∃ t, exec (.ldByte x kk) s = .next t ∧ t.reg x = kk ∧ (∀ r, r ≠ x → t.reg r = s.reg r) ∧ t = { s with v := t.v }) ∧
    (∃ t, exec (.addByte x kk) s = .next t ∧ (t.reg x).toNat = ((s.reg x).toNat + kk.toNat) % 256 ∧
      (∀ r, r ≠ x → t.reg r = s.reg r) ∧ t = { s with v := t.v })

/-- LD Vx,Vy copies, OR, AND and XOR combine bit by bit into Vx, and none writes anything else, VF included (R152 to R155). DERIVED:
decision D11. -/
def Obligations.CopyAndBitwiseFormsLeaveVFAlone : Prop :=
  ∀ (s : State) (x y : RegIx),
    (∃ t, exec (.ldReg x y) s = .next t ∧ t.reg x = s.reg y ∧ (∀ r, r ≠ x → t.reg r = s.reg r) ∧ t = { s with v := t.v }) ∧
    (∃ t, exec (.orReg x y) s = .next t ∧ (∀ b < 8, (t.reg x).getLsbD b = ((s.reg x).getLsbD b || (s.reg y).getLsbD b)) ∧
      (∀ r, r ≠ x → t.reg r = s.reg r) ∧ t = { s with v := t.v }) ∧
    (∃ t, exec (.andReg x y) s = .next t ∧ (∀ b < 8, (t.reg x).getLsbD b = ((s.reg x).getLsbD b && (s.reg y).getLsbD b)) ∧
      (∀ r, r ≠ x → t.reg r = s.reg r) ∧ t = { s with v := t.v }) ∧
    (∃ t, exec (.xorReg x y) s = .next t ∧ (∀ b < 8, (t.reg x).getLsbD b = ((s.reg x).getLsbD b ^^ (s.reg y).getLsbD b)) ∧
      (∀ r, r ≠ x → t.reg r = s.reg r) ∧ t = { s with v := t.v })

/-- ADD Vx,Vy: the sum modulo 256 in Vx and the carry in VF, from the operands as they were before any write; with x = VF the result stays
(R156: the flag is written first, the result last); 8XY4 is its encoding. DERIVED: the opcode number is the spec's general knowledge
(log entry 8). -/
def Obligations.AddSetsTheCarry : Prop :=
  Selects 0xF00F#16 0x8004#16 (fun w => .addReg (xField w) (yField w)) ∧
  ∀ (s : State) (x y : RegIx), ∃ t, exec (.addReg x y) s = .next t ∧
    (t.reg x).toNat = ((s.reg x).toNat + (s.reg y).toNat) % 256 ∧
    (x ≠ VF → t.reg VF = if 255 < (s.reg x).toNat + (s.reg y).toNat then 1 else 0) ∧
    (∀ r, r ≠ x → r ≠ VF → t.reg r = s.reg r) ∧ t = { s with v := t.v }

/-- SUB and SUBN: the difference modulo 256 in Vx, and VF = 1 exactly when the minuend is strictly greater; with x = VF the result stays
(R157, R159); 8XY5 and 8XY7 are their encodings. DERIVED: that the operands are latched is decision D7; the opcode numbers are the spec's
general knowledge (log entry 8). -/
def Obligations.SubtractionsSetTheStrictFlag : Prop :=
  Selects 0xF00F#16 0x8005#16 (fun w => .subReg (xField w) (yField w)) ∧
  Selects 0xF00F#16 0x8007#16 (fun w => .subnReg (xField w) (yField w)) ∧
  ∀ (s : State) (x y : RegIx),
    (∃ t, exec (.subReg x y) s = .next t ∧
      (t.reg x).toNat = (256 + (s.reg x).toNat - (s.reg y).toNat) % 256 ∧
      (x ≠ VF → t.reg VF = if (s.reg y).toNat < (s.reg x).toNat then 1 else 0) ∧
      (∀ r, r ≠ x → r ≠ VF → t.reg r = s.reg r) ∧ t = { s with v := t.v }) ∧
    (∃ t, exec (.subnReg x y) s = .next t ∧
      (t.reg x).toNat = (256 + (s.reg y).toNat - (s.reg x).toNat) % 256 ∧
      (x ≠ VF → t.reg VF = if (s.reg x).toNat < (s.reg y).toNat then 1 else 0) ∧
      (∀ r, r ≠ x → r ≠ VF → t.reg r = s.reg r) ∧ t = { s with v := t.v })

/-- SHR and SHL move Vx by one bit and put the bit shifted out in VF; with x = VF the result stays (R158, R160); 8X?6 and 8X?E are
their encodings. DERIVED: that the operand is latched is decision D7, that Y is ignored D11; the opcode numbers are the spec's general
knowledge (log entry 8). -/
def Obligations.ShiftsCaptureTheBitShiftedOut : Prop :=
  Selects 0xF00F#16 0x8006#16 (fun w => .shr (xField w)) ∧
  Selects 0xF00F#16 0x800E#16 (fun w => .shl (xField w)) ∧
  ∀ (s : State) (x : RegIx),
    (∃ t, exec (.shr x) s = .next t ∧ (t.reg x).toNat = (s.reg x).toNat / 2 ∧
      (x ≠ VF → (t.reg VF).toNat = (s.reg x).toNat % 2) ∧
      (∀ r, r ≠ x → r ≠ VF → t.reg r = s.reg r) ∧ t = { s with v := t.v }) ∧
    (∃ t, exec (.shl x) s = .next t ∧ (t.reg x).toNat = 2 * (s.reg x).toNat % 256 ∧
      (x ≠ VF → (t.reg VF).toNat = (s.reg x).toNat / 128) ∧
      (∀ r, r ≠ x → r ≠ VF → t.reg r = s.reg r) ∧ t = { s with v := t.v })

/-- RND: Vx is a random byte and KK, so no bit outside KK is set, whatever the byte; one byte is consumed (R161). DERIVED: decision D12;
the byte is the free value of log entry 2, and the statement holds for every value of it. -/
def Obligations.RandomByteIsMasked : Prop :=
  ∀ (s : State) (x : RegIx) (kk : Byte), ∃ t, exec (.rnd x kk) s = .next t ∧
    t.reg x = Config.rnd s.draws &&& kk ∧ (∀ b < 8, kk.getLsbD b = false → (t.reg x).getLsbD b = false) ∧
    t.draws = s.draws + 1 ∧ (∀ r, r ≠ x → t.reg r = s.reg r) ∧ t = { s with v := t.v, draws := t.draws }

/-! ## The index register and memory (43_index_memory.md) -/

/-- LD I,addr sets I and nothing else; ANNN is its encoding (R180). DERIVED: the opcode number is the spec's general knowledge
(log entry 8). -/
def Obligations.LoadIndexSetsI : Prop :=
  Selects 0xF000#16 0xA000#16 (fun w => .ldI (nnnField w)) ∧
  ∀ (s : State) (nnn : Addr), ∃ t, exec (.ldI nnn) s = .next t ∧ t.index.toNat = nnn.toNat ∧ t = { s with index := t.index }

/-- ADD I,Vx wraps modulo 65536 with no flag (R181), and LD F,Vx is 0x050 + 5 * Vx for the whole of Vx (R182). DERIVED: decisions D10
and D9. -/
def Obligations.AddIndexAndGlyphAddress : Prop :=
  ∀ (s : State) (x : RegIx),
    (∃ t, exec (.addIVx x) s = .next t ∧ t.index.toNat = (s.index.toNat + (s.reg x).toNat) % 65536 ∧
      t = { s with index := t.index }) ∧
    (∃ t, exec (.ldFVx x) s = .next t ∧ t.index.toNat = 0x50 + 5 * (s.reg x).toNat ∧ t = { s with index := t.index })

/-- LD B,Vx stores the hundreds, tens and ones digits at I, I + 1, I + 2, each address modulo 4096, and changes nothing else; FX33 is its
encoding (R183). DERIVED: the wrap is decision D1; the opcode number is the spec's general knowledge (log entry 8). -/
def Obligations.DecimalDigitsAreStoredAtI : Prop :=
  Selects 0xF0FF#16 0xF033#16 (fun w => .ldBVx (xField w)) ∧
  ∀ (s : State) (x : RegIx), ∃ t, exec (.ldBVx x) s = .next t ∧ t = { s with mem := t.mem } ∧
    ∀ a, (t.memRead a).toNat =
      if a % 4096 = s.index.toNat % 4096 then (s.reg x).toNat / 100
      else if a % 4096 = (s.index.toNat + 1) % 4096 then (s.reg x).toNat / 10 % 10
      else if a % 4096 = (s.index.toNat + 2) % 4096 then (s.reg x).toNat % 10
      else (s.memRead a).toNat

/-- LD [I],Vx stores V0..Vx at I..I + x, each address modulo 4096; I, the registers and every other byte are unchanged; FX55 is its
encoding (R185). DERIVED: the wrap is decision D1, that I stays D11; the opcode number is the spec's general knowledge (log entry 8). -/
def Obligations.RegistersAreStoredFromI : Prop :=
  Selects 0xF0FF#16 0xF055#16 (fun w => .ldMemVx (xField w)) ∧
  ∀ (s : State) (x : RegIx), ∃ t, exec (.ldMemVx x) s = .next t ∧ t = { s with mem := t.mem } ∧
    (∀ r : RegIx, r.toNat ≤ x.toNat → t.memRead (s.index.toNat + r.toNat) = s.reg r) ∧
    (∀ a, (∀ r : RegIx, r.toNat ≤ x.toNat → a % 4096 ≠ (s.index.toNat + r.toNat) % 4096) → t.memRead a = s.memRead a)

/-- LD Vx,[I] loads V0..Vx from I..I + x, each address modulo 4096; I, memory and the higher registers are unchanged; FX65 is its
encoding (R186). DERIVED: the wrap is decision D1, that I stays D11; the opcode number is the spec's general knowledge (log entry 8). -/
def Obligations.RegistersAreLoadedFromI : Prop :=
  Selects 0xF0FF#16 0xF065#16 (fun w => .ldVxMem (xField w)) ∧
  ∀ (s : State) (x : RegIx), ∃ t, exec (.ldVxMem x) s = .next t ∧ t = { s with v := t.v } ∧
    ∀ r : RegIx, t.reg r = if r.toNat ≤ x.toNat then s.memRead (s.index.toNat + r.toNat) else s.reg r

/-- LD [I],Vx then LD Vx,[I] leaves the registers as they were, and the other order leaves every byte of memory as it was (R187, which
the spec marks as derived; decision D11 keeps I in place). -/
def Obligations.StoreAndLoadAreInverse : Prop :=
  ∀ (s t u : State) (x : RegIx),
    (exec (.ldMemVx x) s = .next t → exec (.ldVxMem x) t = .next u →
      SameRegs s u ∧ ∀ r : RegIx, r.toNat ≤ x.toNat → u.memRead (s.index.toNat + r.toNat) = s.reg r) ∧
    (exec (.ldVxMem x) s = .next t → exec (.ldMemVx x) t = .next u → SameMemory s u)

/-- A byte stored by LD [I],Vx or LD B,Vx at an address A is seen by the very next fetch, from A as the word's high byte and from A - 1 as
its low byte, whether or not the word's other byte was stored too (R61). DERIVED: R61 is marked derived by the spec; the wrap of each address
is decision D1. -/
def Obligations.StoreIsSeenByTheNextFetch : Prop :=
  ∀ (s t : State) (x : RegIx), s.Running → step s = .next t →
    (s.Fetches (.ldMemVx x) → ∀ r : RegIx, r.toNat ≤ x.toNat →
      ((s.pc.toNat + 2) % 4096 = (s.index.toNat + r.toNat) % 4096 → t.fetchWord.toNat / 256 = (s.reg r).toNat) ∧
      ((s.pc.toNat + 3) % 4096 = (s.index.toNat + r.toNat) % 4096 → t.fetchWord.toNat % 256 = (s.reg r).toNat)) ∧
    (s.Fetches (.ldBVx x) → ∀ k < 3,
      ((s.pc.toNat + 2) % 4096 = (s.index.toNat + k) % 4096 →
        t.fetchWord.toNat / 256 = (s.reg x).toNat / 10 ^ (2 - k) % 10) ∧
      ((s.pc.toNat + 3) % 4096 = (s.index.toNat + k) % 4096 →
        t.fetchWord.toNat % 256 = (s.reg x).toNat / 10 ^ (2 - k) % 10))

/-! ## The display (44_display.md) -/

/-- CLS clears every pixel and changes nothing else; every word 0x0??0 is CLS (R200). -/
def Obligations.ClearScreenClearsEveryPixel : Prop :=
  Selects 0xF00F#16 0x0000#16 (fun _ => .cls) ∧
  ∀ s : State, ∃ t, exec .cls s = .next t ∧ (∀ x ≤ 63, ∀ y ≤ 31, t.fb.pixel x y = false) ∧ t = { s with fb := t.fb }

/-- DRW: every pixel of the grid is XORed with the sprite's bit over it, pixels off the grid are dropped, and VF = 1 exactly when a set
pixel was cleared; placement is by the old registers (R201, R202). DERIVED: decisions D3, D4, D7. -/
def Obligations.DrawIsPixelwiseXorWithClipping : Prop :=
  ∀ (s : State) (x y : RegIx) (n : Nibble), ∃ t, exec (.drw x y n) s = .next t ∧
    (∀ px ≤ 63, ∀ py ≤ 31, t.fb.pixel px py =
      (s.fb.pixel px py ^^ s.spriteBit ((s.reg x).toNat % 64) ((s.reg y).toNat % 32) n.toNat px py)) ∧
    (t.reg VF = 0 ∨ t.reg VF = 1) ∧
    (t.reg VF = 1 ↔ ∃ px ≤ 63, ∃ py ≤ 31, s.fb.pixel px py = true ∧
      s.spriteBit ((s.reg x).toNat % 64) ((s.reg y).toNat % 32) n.toNat px py = true) ∧
    (∀ r, r ≠ VF → t.reg r = s.reg r) ∧ t = { s with fb := t.fb, v := t.v }

/-- Two identical draws, placed by registers other than VF, leave the display as it was, and the second collides exactly when some
1 bit of the sprite lies over an on-grid pixel that was clear at first (R203, which the spec marks as derived). -/
def Obligations.DrawingTwiceRestoresTheDisplay : Prop :=
  ∀ (s t u : State) (x y : RegIx) (n : Nibble), x ≠ VF → y ≠ VF →
    exec (.drw x y n) s = .next t → exec (.drw x y n) t = .next u →
    u.fb = s.fb ∧
    (u.reg VF = 1 ↔ ∃ px ≤ 63, ∃ py ≤ 31, s.fb.pixel px py = false ∧
      s.spriteBit ((s.reg x).toNat % 64) ((s.reg y).toNat % 32) n.toNat px py = true)

/-! ## The keypad and the timers (45_keypad_timers.md) -/

/-- SKP skips exactly when Vx is at most 15 and that key is pressed, SKNP exactly when not; nothing else changes (R220, R221). DERIVED:
a value above 15 names no key, decision D8. -/
def Obligations.KeySkipsTestTheNamedKey : Prop :=
  ∀ (s : State) (x : RegIx),
    (∃ t, exec (.skp x) s = .next t ∧ t = { s with pc := t.pc } ∧
      t.pc.toNat = if (s.reg x).toNat ≤ 15 ∧ s.keys.getLsbD (s.reg x).toNat = true
        then (s.pc.toNat + 2) % 65536 else s.pc.toNat) ∧
    (∃ t, exec (.sknp x) s = .next t ∧ t = { s with pc := t.pc } ∧
      t.pc.toNat = if (s.reg x).toNat ≤ 15 ∧ s.keys.getLsbD (s.reg x).toNat = true
        then s.pc.toNat else (s.pc.toNat + 2) % 65536)

/-- LD Vx,K: with a key pressed Vx is the least pressed key and the pc stays advanced; with none the pc goes back by 2 modulo 65536 and
Vx keeps its value (R225). DERIVED: the wrap is decision D10; the rest of R225 is WaitingStepKeepsThePc. -/
def Obligations.WaitForKeyTakesTheLeastKeyOrRewinds : Prop :=
  ∀ (s : State) (x : RegIx),
    (∀ k < 16, s.keys.getLsbD k = true → (∀ j < k, s.keys.getLsbD j = false) →
      ∃ t, exec (.ldVxK x) s = .next t ∧ (t.reg x).toNat = k ∧ (∀ r, r ≠ x → t.reg r = s.reg r) ∧ t = { s with v := t.v }) ∧
    ((∀ k < 16, s.keys.getLsbD k = false) →
      ∃ t, exec (.ldVxK x) s = .next t ∧ t.pc.toNat = (s.pc.toNat + 65534) % 65536 ∧ t = { s with pc := t.pc })

/-- A step of LD Vx,K with no key pressed leaves the pc where it was before the step and still ticks both timers (R225). DERIVED: the
tick is decision D15. -/
def Obligations.WaitingStepKeepsThePc : Prop :=
  ∀ (s : State) (x : RegIx), s.Running → s.Fetches (.ldVxK x) → (∀ k < 16, s.keys.getLsbD k = false) →
    ∃ t, step s = .next t ∧ t.dt.toNat = s.dt.toNat - 1 ∧ t.st.toNat = s.st.toNat - 1 ∧
      t = { s with dt := t.dt, st := t.st }

/-- LD Vx,DT copies DT as it stands before the tick, LD DT,Vx and LD ST,Vx copy Vx into the timer (R222, R223, R224). DERIVED: the tick
of the same step is CompletedStepTicksBothTimers. -/
def Obligations.TimerCopiesMoveOneByte : Prop :=
  ∀ (s : State) (x : RegIx),
    (∃ t, exec (.ldVxDT x) s = .next t ∧ t.reg x = s.dt ∧ (∀ r, r ≠ x → t.reg r = s.reg r) ∧ t = { s with v := t.v }) ∧
    (∃ t, exec (.ldDTVx x) s = .next t ∧ t.dt = s.reg x ∧ t = { s with dt := t.dt }) ∧
    (∃ t, exec (.ldSTVx x) s = .next t ∧ t.st = s.reg x ∧ t = { s with st := t.st })

/-- Over n completed steps, none of which executes LD DT,Vx, the delay timer falls by n and stays at 0 from there (R227). DERIVED: R227 is
marked derived by the spec; that the host makes no move between the steps of a run is the model's choice (log entry 6). -/
def Obligations.DelayTimerRunsDownOverSteps : Prop :=
  ∀ (n : Nat) (s t : State), core.run n s = .next t → t.Running →
    (∀ m < n, ∀ u : State, core.run m s = .next u → ∀ x, ¬ u.Fetches (.ldDTVx x)) →
    t.dt.toNat = s.dt.toNat - n

/-- The sound timer affects nothing else in the CORE (R224): whatever its value, a step does the same to all the rest of the state. -/
def Obligations.SoundTimerAffectsNothingElse : Prop :=
  ∀ (s t : State) (b : Byte), step s = .next t →
    ∃ t', step { s with st := b } = .next t' ∧ t = { t' with st := t.st }

/-- Only SKP, SKNP and LD Vx,K read the keys, and only RND the random byte (R113): whatever the keys and the number of bytes consumed, any
other instruction does the same to all the rest of the state. -/
def Obligations.InputsReachOnlyTheirReaders : Prop :=
  ∀ (i : Instr) (s t : State), exec i s = .next t →
    (∀ ks, (∀ x, i ≠ .skp x ∧ i ≠ .sknp x ∧ i ≠ .ldVxK x) →
      exec i { s with keys := ks } = .next { t with keys := ks }) ∧
    (∀ d, (∀ x kk, i ≠ .rnd x kk) → exec i { s with draws := d } = .next { t with draws := d })

/-! ## Frames: what an instruction leaves unchanged when `exec` answers a next state -/

/-- The instructions that write one general register and nothing else; the pc stays as advanced. DERIVED: decision D11. -/
def Obligations.FrameOfRegisterForms : Prop :=
  ∀ (s t : State) (x y : RegIx) (kk : Byte),
    (exec (.ldByte x kk) s = .next t ∨ exec (.addByte x kk) s = .next t ∨ exec (.ldReg x y) s = .next t ∨
     exec (.orReg x y) s = .next t ∨ exec (.andReg x y) s = .next t ∨ exec (.xorReg x y) s = .next t ∨
     exec (.ldVxDT x) s = .next t) →
    (∀ r, r ≠ x → t.reg r = s.reg r) ∧ t.index = s.index ∧ t.pc = s.pc ∧ SameStack s t ∧ SameTimers s t ∧ t.fb = s.fb ∧
    t.fault = s.fault ∧ SameInputs s t ∧ SameMemory s t

/-- RND writes Vx and counts the byte it consumes, and nothing else; LD Vx,K writes Vx or the pc, and nothing else. DERIVED: decision D11;
the count is the model's own (log entry 2). -/
def Obligations.FrameOfInputForms : Prop :=
  ∀ (s t : State) (x : RegIx) (kk : Byte),
    (exec (.rnd x kk) s = .next t →
      (∀ r, r ≠ x → t.reg r = s.reg r) ∧ t.index = s.index ∧ t.pc = s.pc ∧ SameStack s t ∧ SameTimers s t ∧ t.fb = s.fb ∧
      t.fault = s.fault ∧ t.keys = s.keys ∧ t.draws = s.draws + 1 ∧ SameMemory s t) ∧
    (exec (.ldVxK x) s = .next t →
      (∀ r, r ≠ x → t.reg r = s.reg r) ∧ t.index = s.index ∧ (t.pc = s.pc ∨ SameRegs s t) ∧ SameStack s t ∧ SameTimers s t ∧
      t.fb = s.fb ∧ t.fault = s.fault ∧ SameInputs s t ∧ SameMemory s t)

/-- The five flag-writing arithmetic instructions: Vx and VF alone; the pc stays as advanced. DERIVED: decision D11. -/
def Obligations.FrameOfFlagForms : Prop :=
  ∀ (s t : State) (x y : RegIx),
    (exec (.addReg x y) s = .next t ∨ exec (.subReg x y) s = .next t ∨ exec (.subnReg x y) s = .next t ∨
     exec (.shr x) s = .next t ∨ exec (.shl x) s = .next t) →
    (∀ r, r ≠ x → r ≠ VF → t.reg r = s.reg r) ∧ t.index = s.index ∧ t.pc = s.pc ∧ SameStack s t ∧ SameTimers s t ∧ t.fb = s.fb ∧
    t.fault = s.fault ∧ SameInputs s t ∧ SameMemory s t

/-- Jumps and skips: no register, no flag and no byte of memory. DERIVED: decision D11. -/
def Obligations.FrameOfJumpsAndSkips : Prop :=
  ∀ (s t : State) (x y : RegIx) (kk : Byte) (nnn : Addr),
    (exec (.jp nnn) s = .next t ∨ exec (.jpV0 nnn) s = .next t ∨ exec (.seByte x kk) s = .next t ∨
     exec (.sneByte x kk) s = .next t ∨ exec (.seReg x y) s = .next t ∨ exec (.sneReg x y) s = .next t ∨
     exec (.skp x) s = .next t ∨ exec (.sknp x) s = .next t) →
    SameRegs s t ∧ t.index = s.index ∧ SameStack s t ∧ SameTimers s t ∧ t.fb = s.fb ∧
    t.fault = s.fault ∧ SameInputs s t ∧ SameMemory s t

/-- CALL and RET, within the stack and at its limits: only the pc, SP, one slot (CALL) and the latch may change. The stack is not in memory
(R65), so no byte of memory changes. DERIVED: what happens at the limits is decision D2, that it is a next state with the latch set the
model's choice (log entry 3); R65 is marked derived by the spec. -/
def Obligations.FrameOfCallAndReturn : Prop :=
  ∀ (s t : State) (nnn : Addr),
    (exec (.call nnn) s = .next t →
      SameRegs s t ∧ t.index = s.index ∧ SameTimers s t ∧ t.fb = s.fb ∧ SameInputs s t ∧ SameMemory s t ∧
      ∀ k : Fin 16, k.val ≠ s.sp.val → t.stack[k] = s.stack[k]) ∧
    (exec .ret s = .next t →
      SameRegs s t ∧ t.index = s.index ∧ SameTimers s t ∧ t.fb = s.fb ∧ SameInputs s t ∧ SameMemory s t ∧
      t.stack = s.stack)

/-- The instructions that write I or a timer alone: LD I, ADD I, LD F; LD DT; LD ST. The pc stays as advanced. DERIVED: decision D11. -/
def Obligations.FrameOfIndexAndTimerForms : Prop :=
  ∀ (s t : State) (x : RegIx) (nnn : Addr),
    ((exec (.ldI nnn) s = .next t ∨ exec (.addIVx x) s = .next t ∨ exec (.ldFVx x) s = .next t) →
      t.pc = s.pc ∧ SameTimers s t ∧ SameRegs s t ∧ SameStack s t ∧ t.fb = s.fb ∧ t.fault = s.fault ∧ SameInputs s t ∧
      SameMemory s t) ∧
    (exec (.ldDTVx x) s = .next t →
      t.pc = s.pc ∧ t.index = s.index ∧ t.st = s.st ∧ SameRegs s t ∧ SameStack s t ∧ t.fb = s.fb ∧ t.fault = s.fault ∧
      SameInputs s t ∧ SameMemory s t) ∧
    (exec (.ldSTVx x) s = .next t →
      t.pc = s.pc ∧ t.index = s.index ∧ t.dt = s.dt ∧ SameRegs s t ∧ SameStack s t ∧ t.fb = s.fb ∧ t.fault = s.fault ∧
      SameInputs s t ∧ SameMemory s t)

/-- The storing instructions: only the bytes at the addresses EA(0), EA(1), ... the meaning stores to, through the translator; I, the
pc as advanced and every register keep their values (R184: I is never modified). DERIVED: decisions D1 and D11. -/
def Obligations.FrameOfStores : Prop :=
  ∀ (s t : State) (x : RegIx),
    (exec (.ldBVx x) s = .next t →
      SameRegs s t ∧ t.index = s.index ∧ t.pc = s.pc ∧ SameStack s t ∧ SameTimers s t ∧ t.fb = s.fb ∧ t.fault = s.fault ∧
      SameInputs s t ∧ ∀ a, (∀ k < 3, translate a ≠ translate (s.ea k)) → t.memRead a = s.memRead a) ∧
    (exec (.ldMemVx x) s = .next t →
      SameRegs s t ∧ t.index = s.index ∧ t.pc = s.pc ∧ SameStack s t ∧ SameTimers s t ∧ t.fb = s.fb ∧ t.fault = s.fault ∧
      SameInputs s t ∧ ∀ a, (∀ k < x.toNat + 1, translate a ≠ translate (s.ea k)) → t.memRead a = s.memRead a)

/-- LD Vx,[I] writes V0..Vx alone, CLS the display alone, DRW the display and VF alone; none writes a byte of memory or I, and the pc stays
as advanced. DERIVED: decision D11. -/
def Obligations.FrameOfLoadAndDisplayForms : Prop :=
  ∀ (s t : State) (x y : RegIx) (n : Nibble),
    (exec (.ldVxMem x) s = .next t →
      (∀ r : RegIx, x.toNat < r.toNat → t.reg r = s.reg r) ∧ t.fb = s.fb ∧ t.index = s.index ∧ t.pc = s.pc ∧ SameStack s t ∧
      SameTimers s t ∧ t.fault = s.fault ∧ SameInputs s t ∧ SameMemory s t) ∧
    (exec .cls s = .next t →
      SameRegs s t ∧ t.index = s.index ∧ t.pc = s.pc ∧ SameStack s t ∧ SameTimers s t ∧ t.fault = s.fault ∧ SameInputs s t ∧
      SameMemory s t) ∧
    (exec (.drw x y n) s = .next t →
      (∀ r, r ≠ VF → t.reg r = s.reg r) ∧ t.index = s.index ∧ t.pc = s.pc ∧ SameStack s t ∧ SameTimers s t ∧ t.fault = s.fault ∧
      SameInputs s t ∧ SameMemory s t)
end

