-- ==== Sys2Proof/Laws/Encoding.lean ====
section
/-! SUPPORT. The fields of a word built in each format (spec/30_encoding.md R81, R82), and masks field by field. -/

namespace Sys2Proof

/-! ## Format A -/

@[simp] theorem opField_formatA (op : Nibble) (nnn : Addr) : opField (formatA op nnn) = op := by
  show BitVec.extractLsb' (n := 4 + 12) 12 4 (op ++ nnn) = op
  ext i hi
  simp only [BitVec.getElem_extractLsb', BitVec.getLsbD_append]
  simp [show ¬ 12 + i < 12 by omega, hi]

@[simp] theorem nnnField_formatA (op : Nibble) (nnn : Addr) : nnnField (formatA op nnn) = nnn := by
  show BitVec.extractLsb' (n := 4 + 12) 0 12 (op ++ nnn) = nnn
  ext i hi
  simp only [BitVec.getElem_extractLsb', BitVec.getLsbD_append]
  simp [hi]

theorem formatA_and (op op' : Nibble) (nnn nnn' : Addr) :
    formatA op nnn &&& formatA op' nnn' = formatA (op &&& op') (nnn &&& nnn') := BitVec.and_append

/-! ## Formats XK and XF -/

@[simp] theorem opField_formatXK (op : Nibble) (x : RegIx) (kk : Byte) : opField (formatXK op x kk) = op := by
  show BitVec.extractLsb' (n := 4 + 4 + 8) 12 4 (op ++ x ++ kk) = op
  ext i hi
  simp only [BitVec.getElem_extractLsb', BitVec.getLsbD_append]
  simp [show ¬ 12 + i < 8 by omega, show ¬ 12 + i - 8 < 4 by omega, show 12 + i - 8 - 4 = i by omega, hi]

@[simp] theorem xField_formatXK (op : Nibble) (x : RegIx) (kk : Byte) : xField (formatXK op x kk) = x := by
  show BitVec.extractLsb' (n := 4 + 4 + 8) 8 4 (op ++ x ++ kk) = x
  ext i hi
  simp only [BitVec.getElem_extractLsb', BitVec.getLsbD_append]
  simp [show ¬ 8 + i < 8 by omega, hi]

@[simp] theorem kkField_formatXK (op : Nibble) (x : RegIx) (kk : Byte) : kkField (formatXK op x kk) = kk := by
  show BitVec.extractLsb' (n := 4 + 4 + 8) 0 8 (op ++ x ++ kk) = kk
  ext i hi
  simp only [BitVec.getElem_extractLsb', BitVec.getLsbD_append]
  simp [hi]

theorem formatXK_and (op op' : Nibble) (x x' : RegIx) (kk kk' : Byte) :
    formatXK op x kk &&& formatXK op' x' kk' = formatXK (op &&& op') (x &&& x') (kk &&& kk') := by
  show ((op ++ x ++ kk : BitVec (4 + 4 + 8)) &&& (op' ++ x' ++ kk')) = _
  rw [BitVec.and_append, BitVec.and_append]; rfl

/-! ## Formats XYN, XY, XYF and Z -/

@[simp] theorem opField_formatXYN (op : Nibble) (x y : RegIx) (n : Nibble) : opField (formatXYN op x y n) = op := by
  show BitVec.extractLsb' (n := 4 + 4 + 4 + 4) 12 4 (op ++ x ++ y ++ n) = op
  ext i hi
  simp only [BitVec.getElem_extractLsb', BitVec.getLsbD_append]
  simp [show ¬ 12 + i < 4 by omega, show ¬ 12 + i - 4 < 4 by omega, show ¬ 12 + i - 4 - 4 < 4 by omega,
    show 12 + i - 4 - 4 - 4 = i by omega, hi]

@[simp] theorem xField_formatXYN (op : Nibble) (x y : RegIx) (n : Nibble) : xField (formatXYN op x y n) = x := by
  show BitVec.extractLsb' (n := 4 + 4 + 4 + 4) 8 4 (op ++ x ++ y ++ n) = x
  ext i hi
  simp only [BitVec.getElem_extractLsb', BitVec.getLsbD_append]
  simp [show ¬ 8 + i < 4 by omega, show ¬ 8 + i - 4 < 4 by omega, show 8 + i - 4 - 4 = i by omega, hi]

@[simp] theorem yField_formatXYN (op : Nibble) (x y : RegIx) (n : Nibble) : yField (formatXYN op x y n) = y := by
  show BitVec.extractLsb' (n := 4 + 4 + 4 + 4) 4 4 (op ++ x ++ y ++ n) = y
  ext i hi
  simp only [BitVec.getElem_extractLsb', BitVec.getLsbD_append]
  simp [show ¬ 4 + i < 4 by omega, hi]

@[simp] theorem nField_formatXYN (op : Nibble) (x y : RegIx) (n : Nibble) : nField (formatXYN op x y n) = n := by
  show BitVec.extractLsb' (n := 4 + 4 + 4 + 4) 0 4 (op ++ x ++ y ++ n) = n
  ext i hi
  simp only [BitVec.getElem_extractLsb', BitVec.getLsbD_append]
  simp [hi]

theorem formatXYN_and (op op' : Nibble) (x x' y y' : RegIx) (n n' : Nibble) :
    formatXYN op x y n &&& formatXYN op' x' y' n' = formatXYN (op &&& op') (x &&& x') (y &&& y') (n &&& n') := by
  show ((op ++ x ++ y ++ n : BitVec (4 + 4 + 4 + 4)) &&& (op' ++ x' ++ y' ++ n')) = _
  rw [BitVec.and_append, BitVec.and_append, BitVec.and_append]; rfl

@[simp] theorem kkField_formatXYN (op : Nibble) (x y : RegIx) (n : Nibble) : kkField (formatXYN op x y n) = y ++ n := by
  refine BitVec.eq_of_getLsbD_eq (w := 4 + 4) fun i hi => ?_
  show (BitVec.extractLsb' (n := 4 + 4 + 4 + 4) 0 8 (op ++ x ++ y ++ n)).getLsbD i = (y ++ n : BitVec (4 + 4)).getLsbD i
  simp only [BitVec.getLsbD_extractLsb', BitVec.getLsbD_append]
  by_cases h : i < 4
  · simp [h, show i < 8 by omega]
  · simp [h, hi, show i - 4 < 4 by omega]

@[simp] theorem nnnField_formatXYN (op : Nibble) (x y : RegIx) (n : Nibble) : nnnField (formatXYN op x y n) = x ++ y ++ n := by
  refine BitVec.eq_of_getLsbD_eq (w := 4 + 4 + 4) fun i hi => ?_
  show (BitVec.extractLsb' (n := 4 + 4 + 4 + 4) 0 12 (op ++ x ++ y ++ n)).getLsbD i =
    (x ++ y ++ n : BitVec (4 + 4 + 4)).getLsbD i
  simp only [BitVec.getLsbD_extractLsb', BitVec.getLsbD_append]
  by_cases h : i < 4
  · simp [h, show i < 12 by omega]
  · by_cases h' : i - 4 < 4
    · simp [h, h', show i < 12 by omega]
    · simp [h, h', show i < 12 by omega, show i - 4 - 4 < 4 by omega]

/-- Every word is the four fields it is made of. -/
theorem word_eq_formatXYN (w : Word) : w = formatXYN (opField w) (xField w) (yField w) (nField w) := by
  refine BitVec.eq_of_getLsbD_eq (w := 4 + 4 + 4 + 4) fun i hi => ?_
  show w.getLsbD i =
    (w.extractLsb' 12 4 ++ w.extractLsb' 8 4 ++ w.extractLsb' 4 4 ++ w.extractLsb' 0 4 : BitVec (4 + 4 + 4 + 4)).getLsbD i
  simp only [BitVec.getLsbD_extractLsb', BitVec.getLsbD_append]
  by_cases h : i < 4
  · simp [h]
  · by_cases h' : i - 4 < 4
    · simp [h, h', show 4 + (i - 4) = i by omega]
    · by_cases h'' : i - 4 - 4 < 4
      · simp [h, h', h'', show 8 + (i - 4 - 4) = i by omega]
      · simp [h, h', h'', show i - 4 - 4 - 4 < 4 by omega, show 12 + (i - 4 - 4 - 4) = i by omega]

/-! ## The masks of R83 on each format -/

theorem nibble_and_ones (a : Nibble) : a &&& 15#4 = a := BitVec.and_allOnes

theorem byte_and_ones (a : Byte) : a &&& 255#8 = a := BitVec.and_allOnes

theorem formatA_mask (op : Nibble) (nnn : Addr) : formatA op nnn &&& 0xF000#16 = formatA op 0 := by
  rw [show (0xF000#16) = formatA 0xF#4 0 from rfl, formatA_and]
  simp [nibble_and_ones]

theorem formatXK_maskF000 (op : Nibble) (x : RegIx) (kk : Byte) : formatXK op x kk &&& 0xF000#16 = formatXK op 0 0 := by
  rw [show (0xF000#16) = formatXK 0xF#4 0 0 from rfl, formatXK_and]
  simp [nibble_and_ones]

theorem formatXK_maskF0FF (op : Nibble) (x : RegIx) (kk : Byte) : formatXK op x kk &&& 0xF0FF#16 = formatXK op 0 kk := by
  rw [show (0xF0FF#16) = formatXK 0xF#4 0 0xFF#8 from rfl, formatXK_and]
  simp [nibble_and_ones, byte_and_ones]

theorem formatXYN_maskF000 (op : Nibble) (x y : RegIx) (n : Nibble) :
    formatXYN op x y n &&& 0xF000#16 = formatXYN op 0 0 0 := by
  rw [show (0xF000#16) = formatXYN 0xF#4 0 0 0 from rfl, formatXYN_and]
  simp [nibble_and_ones]

theorem formatXYN_maskF00F (op : Nibble) (x y : RegIx) (n : Nibble) :
    formatXYN op x y n &&& 0xF00F#16 = formatXYN op 0 0 n := by
  rw [show (0xF00F#16) = formatXYN 0xF#4 0 0 0xF#4 from rfl, formatXYN_and]
  simp [nibble_and_ones]

/-! ## Fields of a word that a mask and a value select (R83, R84) -/

theorem opField_and (w m : Word) : opField (w &&& m) = opField w &&& opField m := BitVec.extractLsb'_and

theorem nField_and (w m : Word) : nField (w &&& m) = nField w &&& nField m := BitVec.extractLsb'_and

theorem kkField_and (w m : Word) : kkField (w &&& m) = kkField w &&& kkField m := BitVec.extractLsb'_and

theorem opField_of_selected {w mask value : Word} (h : w &&& mask = value) (hm : opField mask = 0xF#4) :
    opField w = opField value := by
  rw [← h, opField_and, hm, nibble_and_ones]

theorem nField_of_selected {w mask value : Word} (h : w &&& mask = value) (hm : nField mask = 0xF#4) :
    nField w = nField value := by
  rw [← h, nField_and, hm, nibble_and_ones]

theorem kkField_of_selected {w mask value : Word} (h : w &&& mask = value) (hm : kkField mask = 0xFF#8) :
    kkField w = kkField value := by
  rw [← h, kkField_and, hm, byte_and_ones]

end Sys2Proof
end

