-- ==== Sys2Proof/Laws/State.lean ====
section
/-! SUPPORT. One lemma per field per update, so that no later proof unfolds a record update; then the register file and the composite
updates. -/

namespace Sys2Proof.Machine

/-! ## Primitive updates -/

@[simp] theorem State.setReg_v (s : State) (x : RegIx) (b : Byte) : (s.setReg x b).v = s.v.set x.toNat b x.isLt := rfl
@[simp] theorem State.setReg_index (s : State) (x : RegIx) (b : Byte) : (s.setReg x b).index = s.index := rfl
@[simp] theorem State.setReg_pc (s : State) (x : RegIx) (b : Byte) : (s.setReg x b).pc = s.pc := rfl
@[simp] theorem State.setReg_stack (s : State) (x : RegIx) (b : Byte) : (s.setReg x b).stack = s.stack := rfl
@[simp] theorem State.setReg_sp (s : State) (x : RegIx) (b : Byte) : (s.setReg x b).sp = s.sp := rfl
@[simp] theorem State.setReg_dt (s : State) (x : RegIx) (b : Byte) : (s.setReg x b).dt = s.dt := rfl
@[simp] theorem State.setReg_st (s : State) (x : RegIx) (b : Byte) : (s.setReg x b).st = s.st := rfl
@[simp] theorem State.setReg_fb (s : State) (x : RegIx) (b : Byte) : (s.setReg x b).fb = s.fb := rfl
@[simp] theorem State.setReg_keys (s : State) (x : RegIx) (b : Byte) : (s.setReg x b).keys = s.keys := rfl
@[simp] theorem State.setReg_fault (s : State) (x : RegIx) (b : Byte) : (s.setReg x b).fault = s.fault := rfl
@[simp] theorem State.setReg_mem (s : State) (x : RegIx) (b : Byte) : (s.setReg x b).mem = s.mem := rfl
@[simp] theorem State.setReg_draws (s : State) (x : RegIx) (b : Byte) : (s.setReg x b).draws = s.draws := rfl
@[simp] theorem State.setReg_memRead (s : State) (x : RegIx) (b : Byte) (addr : Nat) : (s.setReg x b).memRead addr = s.memRead addr := rfl
@[simp] theorem State.setReg_ea (s : State) (x : RegIx) (b : Byte) (k : Nat) : (s.setReg x b).ea k = s.ea k := rfl

@[simp] theorem State.setIndex_v (s : State) (a : Word) : (s.setIndex a).v = s.v := rfl
@[simp] theorem State.setIndex_index (s : State) (a : Word) : (s.setIndex a).index = a := rfl
@[simp] theorem State.setIndex_pc (s : State) (a : Word) : (s.setIndex a).pc = s.pc := rfl
@[simp] theorem State.setIndex_stack (s : State) (a : Word) : (s.setIndex a).stack = s.stack := rfl
@[simp] theorem State.setIndex_sp (s : State) (a : Word) : (s.setIndex a).sp = s.sp := rfl
@[simp] theorem State.setIndex_dt (s : State) (a : Word) : (s.setIndex a).dt = s.dt := rfl
@[simp] theorem State.setIndex_st (s : State) (a : Word) : (s.setIndex a).st = s.st := rfl
@[simp] theorem State.setIndex_fb (s : State) (a : Word) : (s.setIndex a).fb = s.fb := rfl
@[simp] theorem State.setIndex_keys (s : State) (a : Word) : (s.setIndex a).keys = s.keys := rfl
@[simp] theorem State.setIndex_fault (s : State) (a : Word) : (s.setIndex a).fault = s.fault := rfl
@[simp] theorem State.setIndex_mem (s : State) (a : Word) : (s.setIndex a).mem = s.mem := rfl
@[simp] theorem State.setIndex_draws (s : State) (a : Word) : (s.setIndex a).draws = s.draws := rfl
@[simp] theorem State.setIndex_reg (s : State) (a : Word) (r : RegIx) : (s.setIndex a).reg r = s.reg r := rfl
@[simp] theorem State.setIndex_memRead (s : State) (a : Word) (addr : Nat) : (s.setIndex a).memRead addr = s.memRead addr := rfl

@[simp] theorem State.setPc_v (s : State) (a : Word) : (s.setPc a).v = s.v := rfl
@[simp] theorem State.setPc_index (s : State) (a : Word) : (s.setPc a).index = s.index := rfl
@[simp] theorem State.setPc_pc (s : State) (a : Word) : (s.setPc a).pc = a := rfl
@[simp] theorem State.setPc_stack (s : State) (a : Word) : (s.setPc a).stack = s.stack := rfl
@[simp] theorem State.setPc_sp (s : State) (a : Word) : (s.setPc a).sp = s.sp := rfl
@[simp] theorem State.setPc_dt (s : State) (a : Word) : (s.setPc a).dt = s.dt := rfl
@[simp] theorem State.setPc_st (s : State) (a : Word) : (s.setPc a).st = s.st := rfl
@[simp] theorem State.setPc_fb (s : State) (a : Word) : (s.setPc a).fb = s.fb := rfl
@[simp] theorem State.setPc_keys (s : State) (a : Word) : (s.setPc a).keys = s.keys := rfl
@[simp] theorem State.setPc_fault (s : State) (a : Word) : (s.setPc a).fault = s.fault := rfl
@[simp] theorem State.setPc_mem (s : State) (a : Word) : (s.setPc a).mem = s.mem := rfl
@[simp] theorem State.setPc_draws (s : State) (a : Word) : (s.setPc a).draws = s.draws := rfl
@[simp] theorem State.setPc_reg (s : State) (a : Word) (r : RegIx) : (s.setPc a).reg r = s.reg r := rfl
@[simp] theorem State.setPc_memRead (s : State) (a : Word) (addr : Nat) : (s.setPc a).memRead addr = s.memRead addr := rfl
@[simp] theorem State.setPc_ea (s : State) (a : Word) (k : Nat) : (s.setPc a).ea k = s.ea k := rfl

@[simp] theorem State.setDT_v (s : State) (b : Byte) : (s.setDT b).v = s.v := rfl
@[simp] theorem State.setDT_index (s : State) (b : Byte) : (s.setDT b).index = s.index := rfl
@[simp] theorem State.setDT_pc (s : State) (b : Byte) : (s.setDT b).pc = s.pc := rfl
@[simp] theorem State.setDT_stack (s : State) (b : Byte) : (s.setDT b).stack = s.stack := rfl
@[simp] theorem State.setDT_sp (s : State) (b : Byte) : (s.setDT b).sp = s.sp := rfl
@[simp] theorem State.setDT_dt (s : State) (b : Byte) : (s.setDT b).dt = b := rfl
@[simp] theorem State.setDT_st (s : State) (b : Byte) : (s.setDT b).st = s.st := rfl
@[simp] theorem State.setDT_fb (s : State) (b : Byte) : (s.setDT b).fb = s.fb := rfl
@[simp] theorem State.setDT_keys (s : State) (b : Byte) : (s.setDT b).keys = s.keys := rfl
@[simp] theorem State.setDT_fault (s : State) (b : Byte) : (s.setDT b).fault = s.fault := rfl
@[simp] theorem State.setDT_mem (s : State) (b : Byte) : (s.setDT b).mem = s.mem := rfl
@[simp] theorem State.setDT_draws (s : State) (b : Byte) : (s.setDT b).draws = s.draws := rfl
@[simp] theorem State.setDT_reg (s : State) (b : Byte) (r : RegIx) : (s.setDT b).reg r = s.reg r := rfl
@[simp] theorem State.setDT_memRead (s : State) (b : Byte) (addr : Nat) : (s.setDT b).memRead addr = s.memRead addr := rfl
@[simp] theorem State.setDT_ea (s : State) (b : Byte) (k : Nat) : (s.setDT b).ea k = s.ea k := rfl

@[simp] theorem State.setST_v (s : State) (b : Byte) : (s.setST b).v = s.v := rfl
@[simp] theorem State.setST_index (s : State) (b : Byte) : (s.setST b).index = s.index := rfl
@[simp] theorem State.setST_pc (s : State) (b : Byte) : (s.setST b).pc = s.pc := rfl
@[simp] theorem State.setST_stack (s : State) (b : Byte) : (s.setST b).stack = s.stack := rfl
@[simp] theorem State.setST_sp (s : State) (b : Byte) : (s.setST b).sp = s.sp := rfl
@[simp] theorem State.setST_dt (s : State) (b : Byte) : (s.setST b).dt = s.dt := rfl
@[simp] theorem State.setST_st (s : State) (b : Byte) : (s.setST b).st = b := rfl
@[simp] theorem State.setST_fb (s : State) (b : Byte) : (s.setST b).fb = s.fb := rfl
@[simp] theorem State.setST_keys (s : State) (b : Byte) : (s.setST b).keys = s.keys := rfl
@[simp] theorem State.setST_fault (s : State) (b : Byte) : (s.setST b).fault = s.fault := rfl
@[simp] theorem State.setST_mem (s : State) (b : Byte) : (s.setST b).mem = s.mem := rfl
@[simp] theorem State.setST_draws (s : State) (b : Byte) : (s.setST b).draws = s.draws := rfl
@[simp] theorem State.setST_reg (s : State) (b : Byte) (r : RegIx) : (s.setST b).reg r = s.reg r := rfl
@[simp] theorem State.setST_memRead (s : State) (b : Byte) (addr : Nat) : (s.setST b).memRead addr = s.memRead addr := rfl
@[simp] theorem State.setST_ea (s : State) (b : Byte) (k : Nat) : (s.setST b).ea k = s.ea k := rfl

@[simp] theorem State.setFb_v (s : State) (f : Framebuffer) : (s.setFb f).v = s.v := rfl
@[simp] theorem State.setFb_index (s : State) (f : Framebuffer) : (s.setFb f).index = s.index := rfl
@[simp] theorem State.setFb_pc (s : State) (f : Framebuffer) : (s.setFb f).pc = s.pc := rfl
@[simp] theorem State.setFb_stack (s : State) (f : Framebuffer) : (s.setFb f).stack = s.stack := rfl
@[simp] theorem State.setFb_sp (s : State) (f : Framebuffer) : (s.setFb f).sp = s.sp := rfl
@[simp] theorem State.setFb_dt (s : State) (f : Framebuffer) : (s.setFb f).dt = s.dt := rfl
@[simp] theorem State.setFb_st (s : State) (f : Framebuffer) : (s.setFb f).st = s.st := rfl
@[simp] theorem State.setFb_fb (s : State) (f : Framebuffer) : (s.setFb f).fb = f := rfl
@[simp] theorem State.setFb_keys (s : State) (f : Framebuffer) : (s.setFb f).keys = s.keys := rfl
@[simp] theorem State.setFb_fault (s : State) (f : Framebuffer) : (s.setFb f).fault = s.fault := rfl
@[simp] theorem State.setFb_mem (s : State) (f : Framebuffer) : (s.setFb f).mem = s.mem := rfl
@[simp] theorem State.setFb_draws (s : State) (f : Framebuffer) : (s.setFb f).draws = s.draws := rfl
@[simp] theorem State.setFb_reg (s : State) (f : Framebuffer) (r : RegIx) : (s.setFb f).reg r = s.reg r := rfl
@[simp] theorem State.setFb_memRead (s : State) (f : Framebuffer) (addr : Nat) : (s.setFb f).memRead addr = s.memRead addr := rfl
@[simp] theorem State.setFb_ea (s : State) (f : Framebuffer) (k : Nat) : (s.setFb f).ea k = s.ea k := rfl

@[simp] theorem State.memWrite_v (s : State) (a : Nat) (b : Byte) : (s.memWrite a b).v = s.v := rfl
@[simp] theorem State.memWrite_index (s : State) (a : Nat) (b : Byte) : (s.memWrite a b).index = s.index := rfl
@[simp] theorem State.memWrite_pc (s : State) (a : Nat) (b : Byte) : (s.memWrite a b).pc = s.pc := rfl
@[simp] theorem State.memWrite_stack (s : State) (a : Nat) (b : Byte) : (s.memWrite a b).stack = s.stack := rfl
@[simp] theorem State.memWrite_sp (s : State) (a : Nat) (b : Byte) : (s.memWrite a b).sp = s.sp := rfl
@[simp] theorem State.memWrite_dt (s : State) (a : Nat) (b : Byte) : (s.memWrite a b).dt = s.dt := rfl
@[simp] theorem State.memWrite_st (s : State) (a : Nat) (b : Byte) : (s.memWrite a b).st = s.st := rfl
@[simp] theorem State.memWrite_fb (s : State) (a : Nat) (b : Byte) : (s.memWrite a b).fb = s.fb := rfl
@[simp] theorem State.memWrite_keys (s : State) (a : Nat) (b : Byte) : (s.memWrite a b).keys = s.keys := rfl
@[simp] theorem State.memWrite_fault (s : State) (a : Nat) (b : Byte) : (s.memWrite a b).fault = s.fault := rfl
@[simp] theorem State.memWrite_mem (s : State) (a : Nat) (b : Byte) : (s.memWrite a b).mem = s.mem.write (translate a) b := rfl
@[simp] theorem State.memWrite_draws (s : State) (a : Nat) (b : Byte) : (s.memWrite a b).draws = s.draws := rfl
@[simp] theorem State.memWrite_reg (s : State) (a : Nat) (b : Byte) (r : RegIx) : (s.memWrite a b).reg r = s.reg r := rfl
@[simp] theorem State.memWrite_ea (s : State) (a : Nat) (b : Byte) (k : Nat) : (s.memWrite a b).ea k = s.ea k := rfl

@[simp] theorem State.raiseFault_v (s : State) (c : FaultLatch) : (s.raiseFault c).v = s.v := rfl
@[simp] theorem State.raiseFault_index (s : State) (c : FaultLatch) : (s.raiseFault c).index = s.index := rfl
@[simp] theorem State.raiseFault_pc (s : State) (c : FaultLatch) : (s.raiseFault c).pc = s.pc := rfl
@[simp] theorem State.raiseFault_stack (s : State) (c : FaultLatch) : (s.raiseFault c).stack = s.stack := rfl
@[simp] theorem State.raiseFault_sp (s : State) (c : FaultLatch) : (s.raiseFault c).sp = s.sp := rfl
@[simp] theorem State.raiseFault_dt (s : State) (c : FaultLatch) : (s.raiseFault c).dt = s.dt := rfl
@[simp] theorem State.raiseFault_st (s : State) (c : FaultLatch) : (s.raiseFault c).st = s.st := rfl
@[simp] theorem State.raiseFault_fb (s : State) (c : FaultLatch) : (s.raiseFault c).fb = s.fb := rfl
@[simp] theorem State.raiseFault_keys (s : State) (c : FaultLatch) : (s.raiseFault c).keys = s.keys := rfl
@[simp] theorem State.raiseFault_fault (s : State) (c : FaultLatch) : (s.raiseFault c).fault = c := rfl
@[simp] theorem State.raiseFault_mem (s : State) (c : FaultLatch) : (s.raiseFault c).mem = s.mem := rfl
@[simp] theorem State.raiseFault_draws (s : State) (c : FaultLatch) : (s.raiseFault c).draws = s.draws := rfl
@[simp] theorem State.raiseFault_reg (s : State) (c : FaultLatch) (r : RegIx) : (s.raiseFault c).reg r = s.reg r := rfl
@[simp] theorem State.raiseFault_memRead (s : State) (c : FaultLatch) (addr : Nat) : (s.raiseFault c).memRead addr = s.memRead addr := rfl
@[simp] theorem State.raiseFault_ea (s : State) (c : FaultLatch) (k : Nat) : (s.raiseFault c).ea k = s.ea k := rfl

@[simp] theorem State.consumeDraw_v (s : State) : (s.consumeDraw).v = s.v := rfl
@[simp] theorem State.consumeDraw_index (s : State) : (s.consumeDraw).index = s.index := rfl
@[simp] theorem State.consumeDraw_pc (s : State) : (s.consumeDraw).pc = s.pc := rfl
@[simp] theorem State.consumeDraw_stack (s : State) : (s.consumeDraw).stack = s.stack := rfl
@[simp] theorem State.consumeDraw_sp (s : State) : (s.consumeDraw).sp = s.sp := rfl
@[simp] theorem State.consumeDraw_dt (s : State) : (s.consumeDraw).dt = s.dt := rfl
@[simp] theorem State.consumeDraw_st (s : State) : (s.consumeDraw).st = s.st := rfl
@[simp] theorem State.consumeDraw_fb (s : State) : (s.consumeDraw).fb = s.fb := rfl
@[simp] theorem State.consumeDraw_keys (s : State) : (s.consumeDraw).keys = s.keys := rfl
@[simp] theorem State.consumeDraw_fault (s : State) : (s.consumeDraw).fault = s.fault := rfl
@[simp] theorem State.consumeDraw_mem (s : State) : (s.consumeDraw).mem = s.mem := rfl
@[simp] theorem State.consumeDraw_draws (s : State) : (s.consumeDraw).draws = s.draws + 1 := rfl
@[simp] theorem State.consumeDraw_reg (s : State) (r : RegIx) : (s.consumeDraw).reg r = s.reg r := rfl
@[simp] theorem State.consumeDraw_memRead (s : State) (addr : Nat) : (s.consumeDraw).memRead addr = s.memRead addr := rfl
@[simp] theorem State.consumeDraw_ea (s : State) (k : Nat) : (s.consumeDraw).ea k = s.ea k := rfl

@[simp] theorem State.advance_v (s : State) : (s.advance).v = s.v := rfl
@[simp] theorem State.advance_index (s : State) : (s.advance).index = s.index := rfl
@[simp] theorem State.advance_pc (s : State) : (s.advance).pc = s.pc + 2 := rfl
@[simp] theorem State.advance_stack (s : State) : (s.advance).stack = s.stack := rfl
@[simp] theorem State.advance_sp (s : State) : (s.advance).sp = s.sp := rfl
@[simp] theorem State.advance_dt (s : State) : (s.advance).dt = s.dt := rfl
@[simp] theorem State.advance_st (s : State) : (s.advance).st = s.st := rfl
@[simp] theorem State.advance_fb (s : State) : (s.advance).fb = s.fb := rfl
@[simp] theorem State.advance_keys (s : State) : (s.advance).keys = s.keys := rfl
@[simp] theorem State.advance_fault (s : State) : (s.advance).fault = s.fault := rfl
@[simp] theorem State.advance_mem (s : State) : (s.advance).mem = s.mem := rfl
@[simp] theorem State.advance_draws (s : State) : (s.advance).draws = s.draws := rfl
@[simp] theorem State.advance_reg (s : State) (r : RegIx) : (s.advance).reg r = s.reg r := rfl
@[simp] theorem State.advance_memRead (s : State) (addr : Nat) : (s.advance).memRead addr = s.memRead addr := rfl
@[simp] theorem State.advance_ea (s : State) (k : Nat) : (s.advance).ea k = s.ea k := rfl

@[simp] theorem State.tick_v (s : State) : (s.tick).v = s.v := rfl
@[simp] theorem State.tick_index (s : State) : (s.tick).index = s.index := rfl
@[simp] theorem State.tick_pc (s : State) : (s.tick).pc = s.pc := rfl
@[simp] theorem State.tick_stack (s : State) : (s.tick).stack = s.stack := rfl
@[simp] theorem State.tick_sp (s : State) : (s.tick).sp = s.sp := rfl
@[simp] theorem State.tick_dt (s : State) : (s.tick).dt = tickDown s.dt := rfl
@[simp] theorem State.tick_st (s : State) : (s.tick).st = tickDown s.st := rfl
@[simp] theorem State.tick_fb (s : State) : (s.tick).fb = s.fb := rfl
@[simp] theorem State.tick_keys (s : State) : (s.tick).keys = s.keys := rfl
@[simp] theorem State.tick_fault (s : State) : (s.tick).fault = s.fault := rfl
@[simp] theorem State.tick_mem (s : State) : (s.tick).mem = s.mem := rfl
@[simp] theorem State.tick_draws (s : State) : (s.tick).draws = s.draws := rfl
@[simp] theorem State.tick_reg (s : State) (r : RegIx) : (s.tick).reg r = s.reg r := rfl
@[simp] theorem State.tick_memRead (s : State) (addr : Nat) : (s.tick).memRead addr = s.memRead addr := rfl
@[simp] theorem State.tick_ea (s : State) (k : Nat) : (s.tick).ea k = s.ea k := rfl

/-! ## The register file -/

/-- A read after a write: the written register has the value, every other is as before. -/
@[simp] theorem State.setReg_reg (s : State) (x : RegIx) (b : Byte) (r : RegIx) :
    (s.setReg x b).reg r = if r = x then b else s.reg r := by
  simp only [State.reg, State.setReg, Vector.getElem_set]
  by_cases h : r = x
  · simp [h]
  · rw [if_neg h, if_neg fun e => h (BitVec.eq_of_toNat_eq e.symm)]

theorem State.setReg_reg_same (s : State) (x : RegIx) (b : Byte) : (s.setReg x b).reg x = b := by simp

/-- Two register files that read alike are the same data. -/
theorem State.v_eq_of_reg_eq {s t : State} (h : ∀ r, s.reg r = t.reg r) : s.v = t.v := by
  apply Vector.ext
  intro i hi
  have := h (BitVec.ofNat 4 i)
  simpa only [State.reg, BitVec.toNat_ofNat, Nat.mod_eq_of_lt (show i < 2 ^ 4 from hi)] using this

/-! ## Composite updates -/

@[simp] theorem State.skipIf_v (s : State) (c : Bool) : (s.skipIf c).v = s.v := by
  unfold State.skipIf; split <;> rfl
@[simp] theorem State.skipIf_index (s : State) (c : Bool) : (s.skipIf c).index = s.index := by
  unfold State.skipIf; split <;> rfl
@[simp] theorem State.skipIf_stack (s : State) (c : Bool) : (s.skipIf c).stack = s.stack := by
  unfold State.skipIf; split <;> rfl
@[simp] theorem State.skipIf_sp (s : State) (c : Bool) : (s.skipIf c).sp = s.sp := by
  unfold State.skipIf; split <;> rfl
@[simp] theorem State.skipIf_dt (s : State) (c : Bool) : (s.skipIf c).dt = s.dt := by
  unfold State.skipIf; split <;> rfl
@[simp] theorem State.skipIf_st (s : State) (c : Bool) : (s.skipIf c).st = s.st := by
  unfold State.skipIf; split <;> rfl
@[simp] theorem State.skipIf_fb (s : State) (c : Bool) : (s.skipIf c).fb = s.fb := by
  unfold State.skipIf; split <;> rfl
@[simp] theorem State.skipIf_keys (s : State) (c : Bool) : (s.skipIf c).keys = s.keys := by
  unfold State.skipIf; split <;> rfl
@[simp] theorem State.skipIf_fault (s : State) (c : Bool) : (s.skipIf c).fault = s.fault := by
  unfold State.skipIf; split <;> rfl
@[simp] theorem State.skipIf_mem (s : State) (c : Bool) : (s.skipIf c).mem = s.mem := by
  unfold State.skipIf; split <;> rfl
@[simp] theorem State.skipIf_draws (s : State) (c : Bool) : (s.skipIf c).draws = s.draws := by
  unfold State.skipIf; split <;> rfl
@[simp] theorem State.skipIf_reg (s : State) (c : Bool) (r : RegIx) : (s.skipIf c).reg r = s.reg r := by
  unfold State.skipIf; split <;> rfl
@[simp] theorem State.skipIf_memRead (s : State) (c : Bool) (addr : Nat) : (s.skipIf c).memRead addr = s.memRead addr := by
  unfold State.skipIf; split <;> rfl

@[simp] theorem State.callTo_v (s : State) (a : Word) : (s.callTo a).v = s.v := by
  unfold State.callTo; split <;> rfl
@[simp] theorem State.callTo_index (s : State) (a : Word) : (s.callTo a).index = s.index := by
  unfold State.callTo; split <;> rfl
@[simp] theorem State.callTo_dt (s : State) (a : Word) : (s.callTo a).dt = s.dt := by
  unfold State.callTo; split <;> rfl
@[simp] theorem State.callTo_st (s : State) (a : Word) : (s.callTo a).st = s.st := by
  unfold State.callTo; split <;> rfl
@[simp] theorem State.callTo_fb (s : State) (a : Word) : (s.callTo a).fb = s.fb := by
  unfold State.callTo; split <;> rfl
@[simp] theorem State.callTo_keys (s : State) (a : Word) : (s.callTo a).keys = s.keys := by
  unfold State.callTo; split <;> rfl
@[simp] theorem State.callTo_mem (s : State) (a : Word) : (s.callTo a).mem = s.mem := by
  unfold State.callTo; split <;> rfl
@[simp] theorem State.callTo_draws (s : State) (a : Word) : (s.callTo a).draws = s.draws := by
  unfold State.callTo; split <;> rfl
@[simp] theorem State.callTo_reg (s : State) (a : Word) (r : RegIx) : (s.callTo a).reg r = s.reg r := by
  unfold State.callTo; split <;> rfl
@[simp] theorem State.callTo_memRead (s : State) (a : Word) (addr : Nat) : (s.callTo a).memRead addr = s.memRead addr := by
  unfold State.callTo; split <;> rfl

@[simp] theorem State.returnToCaller_v (s : State) : (s.returnToCaller).v = s.v := by
  unfold State.returnToCaller; split <;> rfl
@[simp] theorem State.returnToCaller_index (s : State) : (s.returnToCaller).index = s.index := by
  unfold State.returnToCaller; split <;> rfl
@[simp] theorem State.returnToCaller_stack (s : State) : (s.returnToCaller).stack = s.stack := by
  unfold State.returnToCaller; split <;> rfl
@[simp] theorem State.returnToCaller_dt (s : State) : (s.returnToCaller).dt = s.dt := by
  unfold State.returnToCaller; split <;> rfl
@[simp] theorem State.returnToCaller_st (s : State) : (s.returnToCaller).st = s.st := by
  unfold State.returnToCaller; split <;> rfl
@[simp] theorem State.returnToCaller_fb (s : State) : (s.returnToCaller).fb = s.fb := by
  unfold State.returnToCaller; split <;> rfl
@[simp] theorem State.returnToCaller_keys (s : State) : (s.returnToCaller).keys = s.keys := by
  unfold State.returnToCaller; split <;> rfl
@[simp] theorem State.returnToCaller_mem (s : State) : (s.returnToCaller).mem = s.mem := by
  unfold State.returnToCaller; split <;> rfl
@[simp] theorem State.returnToCaller_draws (s : State) : (s.returnToCaller).draws = s.draws := by
  unfold State.returnToCaller; split <;> rfl
@[simp] theorem State.returnToCaller_reg (s : State) (r : RegIx) : (s.returnToCaller).reg r = s.reg r := by
  unfold State.returnToCaller; split <;> rfl
@[simp] theorem State.returnToCaller_memRead (s : State) (addr : Nat) : (s.returnToCaller).memRead addr = s.memRead addr := by
  unfold State.returnToCaller; split <;> rfl

@[simp] theorem State.setFlagThenReg_index (s : State) (c : Bool) (x : RegIx) (b : Byte) : (s.setFlagThenReg c x b).index = s.index := rfl
@[simp] theorem State.setFlagThenReg_pc (s : State) (c : Bool) (x : RegIx) (b : Byte) : (s.setFlagThenReg c x b).pc = s.pc := rfl
@[simp] theorem State.setFlagThenReg_stack (s : State) (c : Bool) (x : RegIx) (b : Byte) : (s.setFlagThenReg c x b).stack = s.stack := rfl
@[simp] theorem State.setFlagThenReg_sp (s : State) (c : Bool) (x : RegIx) (b : Byte) : (s.setFlagThenReg c x b).sp = s.sp := rfl
@[simp] theorem State.setFlagThenReg_dt (s : State) (c : Bool) (x : RegIx) (b : Byte) : (s.setFlagThenReg c x b).dt = s.dt := rfl
@[simp] theorem State.setFlagThenReg_st (s : State) (c : Bool) (x : RegIx) (b : Byte) : (s.setFlagThenReg c x b).st = s.st := rfl
@[simp] theorem State.setFlagThenReg_fb (s : State) (c : Bool) (x : RegIx) (b : Byte) : (s.setFlagThenReg c x b).fb = s.fb := rfl
@[simp] theorem State.setFlagThenReg_keys (s : State) (c : Bool) (x : RegIx) (b : Byte) : (s.setFlagThenReg c x b).keys = s.keys := rfl
@[simp] theorem State.setFlagThenReg_fault (s : State) (c : Bool) (x : RegIx) (b : Byte) : (s.setFlagThenReg c x b).fault = s.fault := rfl
@[simp] theorem State.setFlagThenReg_mem (s : State) (c : Bool) (x : RegIx) (b : Byte) : (s.setFlagThenReg c x b).mem = s.mem := rfl
@[simp] theorem State.setFlagThenReg_draws (s : State) (c : Bool) (x : RegIx) (b : Byte) : (s.setFlagThenReg c x b).draws = s.draws := rfl
@[simp] theorem State.setFlagThenReg_memRead (s : State) (c : Bool) (x : RegIx) (b : Byte) (addr : Nat) :
    (s.setFlagThenReg c x b).memRead addr = s.memRead addr := rfl

/-- The flag-writing pattern (42_alu.md R163): the result at `x`, the flag at VF unless `x` is VF, all else as before. -/
@[simp] theorem State.setFlagThenReg_reg (s : State) (c : Bool) (x : RegIx) (b : Byte) (r : RegIx) :
    (s.setFlagThenReg c x b).reg r = if r = x then b else if r = VF then flagByte c else s.reg r := by
  simp [State.setFlagThenReg]

end Sys2Proof.Machine
end

