-- ==== Sys2Proof/Laws/Memory.lean ====
section
/-! SUPPORT. Memory: a read after a write, and the canonical form kept by every memory operation (spec/20_memory.md R53, R57). The read laws
hold for every list, canonical or not. -/

namespace Sys2Proof.Machine

@[simp] theorem translate_eq (a : Nat) : translate a = a % 4096 := rfl

theorem translate_lt (a : Nat) : translate a < 4096 := Nat.mod_lt _ (by decide)

/-- The reset contents (10_state.md R36): the font table at [0x050, 0x0A0), 0 elsewhere. -/
theorem resetByte_eq (a : Nat) :
    resetByte a = if 0x50 ≤ a ∧ a < 0xA0 then fontTable.getD (a - 0x50) 0 else 0 := by
  have hl : fontTable.length = 80 := by decide
  unfold resetByte
  by_cases h : a < 0xA0
  · simp [h]
  · rw [List.getD_eq_default _ _ (by omega), ite_self, ite_self]

/-! ## Reads -/

theorem Memory.read_erase (m : Memory) (a a' : Nat) :
    Memory.read (Memory.erase m a) a' = if a' = a then resetByte a else Memory.read m a' := by
  induction m with
  | nil => by_cases h : a' = a <;> simp [Memory.erase, Memory.read, h]
  | cons c rest ih =>
    obtain ⟨k, b⟩ := c
    simp only [Memory.erase, List.filter_cons] at ih ⊢
    by_cases hk : k = a
    · subst hk
      simp only [bne_self_eq_false, Bool.false_eq_true, if_false, ih, Memory.read]
      by_cases h : a' = k
      · simp [h]
      · simp [h, Ne.symm h]
    · simp only [bne_iff_ne, ne_eq, hk, not_false_eq_true, if_true, Memory.read, ih]
      by_cases h : k = a'
      · subst h; simp [hk]
      · simp [h]

theorem Memory.read_insert (m : Memory) (a : Nat) (b : Byte) (a' : Nat) (h : a ∉ m.map Prod.fst) :
    Memory.read (Memory.insert m a b) a' = if a' = a then b else Memory.read m a' := by
  induction m with
  | nil =>
    by_cases e : a' = a
    · simp [Memory.insert, Memory.read, e]
    · simp [Memory.insert, Memory.read, e, Ne.symm e]
  | cons c rest ih =>
    obtain ⟨k, d⟩ := c
    simp only [List.map_cons, List.mem_cons, not_or] at h
    by_cases hl : a < k
    · simp only [Memory.insert, hl, if_true, Memory.read]
      by_cases e : a' = a
      · simp [e]
      · simp [e, Ne.symm e]
    · simp only [Memory.insert, hl, if_false, Memory.read, ih h.2]
      by_cases e : k = a'
      · subst e; simp [Ne.symm h.1]
      · simp [e]

theorem Memory.not_mem_erase (m : Memory) (a : Nat) : a ∉ (Memory.erase m a).map Prod.fst := by
  simp [Memory.erase]

/-- What a memory write does, seen through reads. -/
theorem Memory.read_write (m : Memory) (a : Nat) (b : Byte) (a' : Nat) :
    Memory.read (Memory.write m a b) a' = if a' = a then b else Memory.read m a' := by
  unfold Memory.write
  split
  · rename_i hb; rw [Memory.read_erase, hb]
  · rw [Memory.read_insert _ _ _ _ (Memory.not_mem_erase m a), Memory.read_erase]
    split <;> simp_all

/-- MemRead after MemWrite (R53): the written byte at that translated address, every other byte as before. -/
theorem State.memRead_memWrite (s : State) (a : Nat) (b : Byte) (a' : Nat) :
    (s.memWrite a b).memRead a' = if a' % 4096 = a % 4096 then b else s.memRead a' := by
  simp only [State.memRead, State.memWrite, Memory.read_write, translate_eq]

/-! ## The canonical form -/

theorem Memory.wfFrom_cons (low a : Nat) (b : Byte) (rest : Memory) :
    Memory.wfFrom low ((a, b) :: rest) = true ↔
      low ≤ a ∧ a < 4096 ∧ b ≠ resetByte a ∧ Memory.wfFrom (a + 1) rest = true := by
  simp only [Memory.wfFrom, Bool.and_eq_true, decide_eq_true_eq, bne_iff_ne, and_assoc]

theorem Memory.wfFrom_mono {low low' : Nat} {m : Memory} (h : Memory.wfFrom low m = true) (hl : low' ≤ low) :
    Memory.wfFrom low' m = true := by
  cases m with
  | nil => rfl
  | cons c rest =>
    obtain ⟨a, b⟩ := c
    rw [Memory.wfFrom_cons] at h ⊢
    exact ⟨by omega, h.2⟩

theorem Memory.wfFrom_erase {m : Memory} (a : Nat) {low : Nat} (h : Memory.wfFrom low m = true) :
    Memory.wfFrom low (Memory.erase m a) = true := by
  induction m generalizing low with
  | nil => rfl
  | cons c rest ih =>
    obtain ⟨k, b⟩ := c
    rw [Memory.wfFrom_cons] at h
    simp only [Memory.erase, List.filter_cons] at ih ⊢
    split
    · exact (Memory.wfFrom_cons ..).2 ⟨h.1, h.2.1, h.2.2.1, ih h.2.2.2⟩
    · exact Memory.wfFrom_mono (ih h.2.2.2) (by omega)

theorem Memory.wfFrom_insert {m : Memory} {a : Nat} {b : Byte} {low : Nat} (h : Memory.wfFrom low m = true)
    (hn : a ∉ m.map Prod.fst) (hl : low ≤ a) (ha : a < 4096) (hb : b ≠ resetByte a) :
    Memory.wfFrom low (Memory.insert m a b) = true := by
  induction m generalizing low with
  | nil => simp [Memory.insert, Memory.wfFrom, hl, ha, hb]
  | cons c rest ih =>
    obtain ⟨k, d⟩ := c
    simp only [List.map_cons, List.mem_cons, not_or] at hn
    rw [Memory.wfFrom_cons] at h
    by_cases hk : a < k
    · simp only [Memory.insert, hk, if_true, Memory.wfFrom_cons]
      exact ⟨hl, ha, hb, by omega, h.2⟩
    · simp only [Memory.insert, hk, if_false, Memory.wfFrom_cons]
      exact ⟨h.1, h.2.1, h.2.2.1, ih h.2.2.2 hn.2 (by have := hn.1; omega)⟩

/-- Every memory write keeps the canonical form. -/
theorem Memory.wf_write {m : Memory} {a : Nat} (b : Byte) (h : Memory.wf m = true) (ha : a < 4096) :
    Memory.wf (Memory.write m a b) = true := by
  unfold Memory.write
  split
  · exact Memory.wfFrom_erase a h
  · rename_i hb
    exact Memory.wfFrom_insert (Memory.wfFrom_erase a h) (Memory.not_mem_erase m a) (Nat.zero_le _) ha hb

theorem State.wf_memWrite {s : State} (a : Nat) (b : Byte) (h : Memory.wf s.mem = true) :
    Memory.wf (s.memWrite a b).mem = true :=
  Memory.wf_write b h (translate_lt a)

/-- Memory after reset is canonical: nothing is listed. -/
theorem reset_mem_wf : Memory.wf State.reset.mem = true := rfl

end Sys2Proof.Machine
end

