-- ==== Sys2Proof/Laws/Ops.lean ====
section
/-! SUPPORT. For each shared operation, once, everything it can do. -/

namespace Sys2Proof.Machine

/-! ## Control flow -/

@[simp] theorem State.skipIf_pc (s : State) (c : Bool) : (s.skipIf c).pc = if c then s.pc + 2 else s.pc := by
  unfold State.skipIf; split <;> rfl

/-- CALL pushes and jumps, or raises StackOverflow (41_flow.md R132). -/
theorem State.callTo_cases (s : State) (a : Word) :
    (∃ h : s.sp.val < 16, s.callTo a =
      { s with stack := s.stack.set s.sp.val s.pc h, sp := ⟨s.sp.val + 1, by omega⟩, pc := a }) ∨
    (s.sp.val = 16 ∧ s.callTo a = s.raiseFault .stackOverflow) := by
  unfold State.callTo
  by_cases h : s.sp.val < 16
  · exact .inl ⟨h, by simp [h]⟩
  · exact .inr ⟨by have := s.sp.isLt; omega, by simp [h]⟩

/-- RET pops, or raises StackUnderflow (41_flow.md R130). -/
theorem State.returnToCaller_cases (s : State) :
    (∃ h : 0 < s.sp.val, s.returnToCaller =
      { s with sp := ⟨s.sp.val - 1, by omega⟩, pc := s.stack[s.sp.val - 1]'(by omega) }) ∨
    (s.sp.val = 0 ∧ s.returnToCaller = s.raiseFault .stackUnderflow) := by
  unfold State.returnToCaller
  by_cases h : 0 < s.sp.val
  · exact .inl ⟨h, by simp [h]⟩
  · exact .inr ⟨by omega, by simp [h]⟩

/-! ## The phases of a step -/

/-- One timer, one tick, as a number (40_step_cycle.md R114). -/
theorem tickDown_toNat (b : Byte) : (tickDown b).toNat = b.toNat - 1 := by
  unfold tickDown
  split
  · rename_i h; subst h; rfl
  · rename_i h
    have h' : b.toNat ≠ 0 := fun e => h (BitVec.eq_of_toNat_eq (by simpa using e))
    have := b.isLt
    rw [BitVec.toNat_sub_of_le]
    · rfl
    · show (1#8).toNat ≤ b.toNat
      simp; omega

theorem State.commit_running {b a : State} (h : a.fault = .running) : b.commit a = a.tick := by
  simp [State.commit, h]

theorem State.commit_raised {b a : State} (h : a.fault ≠ .running) : b.commit a = b.raiseFault a.fault := by
  simp [State.commit, h]

/-- Everything a step that answers a next state can have done (40_step_cycle.md R110). -/
theorem step_cases {s t : State} (h : step s = .next t) :
    s.fault = .running ∧
      ((∃ i u, decodeWord s.fetchWord = .instr i ∧ exec i s.advance = .next u ∧ t = s.commit u) ∨
       (∃ k, decodeWord s.fetchWord = .unrecognised k ∧ t = s.advance.tick)) := by
  unfold step at h
  split at h
  · cases h
  · cases h
  · rename_i hf
    refine ⟨hf, ?_⟩
    split at h
    · rename_i k hd
      cases h
      exact .inr ⟨k, hd, State.commit_running (by simp [hf])⟩
    · rename_i i hd
      split at h
      · rename_i u hu
        cases h
        exact .inl ⟨i, u, hd, hu, rfl⟩
      · cases h
      · cases h

/-! ## Stores and loads (43_index_memory.md R185, R186) -/

/-- Storing registers changes memory alone. -/
theorem State.storeRegs_eq (s : State) (n : Nat) : s.storeRegs n = { s with mem := (s.storeRegs n).mem } := by
  induction n with
  | zero => rfl
  | succ k ih => simp only [State.storeRegs, State.memWrite]; rw [ih]

/-- Loading registers changes the register file alone. -/
theorem State.loadRegs_eq (s : State) (n : Nat) : s.loadRegs n = { s with v := (s.loadRegs n).v } := by
  induction n with
  | zero => rfl
  | succ k ih => simp only [State.loadRegs, State.setReg]; rw [ih]

/-- The registers after a load of the first `n`, n at most 16. -/
theorem State.loadRegs_reg (s : State) (n : Nat) (hn : n ≤ 16) (r : RegIx) :
    (s.loadRegs n).reg r = if r.toNat < n then s.memRead (s.ea r.toNat) else s.reg r := by
  induction n with
  | zero => simp [State.loadRegs]
  | succ k ih =>
    have hk : (BitVec.ofNat 4 k).toNat = k := by simp; omega
    simp only [State.loadRegs, State.setReg_reg, ih (by omega)]
    by_cases h : r = BitVec.ofNat 4 k
    · rw [if_pos h, h, hk, if_pos (by omega)]
    · rw [if_neg h]
      have : r.toNat ≠ k := fun e => h (BitVec.eq_of_toNat_eq (by omega))
      by_cases hl : r.toNat < k
      · rw [if_pos hl, if_pos (by omega)]
      · rw [if_neg hl, if_neg (by omega)]

/-- A byte after a store of the first `n` registers: outside the stored addresses it is as before. -/
theorem State.storeRegs_memRead_ne (s : State) (n a : Nat) (h : ∀ k < n, a % 4096 ≠ s.ea k % 4096) :
    (s.storeRegs n).memRead a = s.memRead a := by
  induction n with
  | zero => rfl
  | succ k ih =>
    simp only [State.storeRegs, State.memRead_memWrite]
    rw [if_neg (h k (by omega)), ih fun j hj => h j (by omega)]

/-- A stored byte is the register stored there: the addresses of one store are distinct (20_memory.md R56). -/
theorem State.storeRegs_memRead (s : State) (n k : Nat) (hk : k < n) (hn : n ≤ 16) :
    (s.storeRegs n).memRead (s.ea k) = s.reg (BitVec.ofNat 4 k) := by
  induction n with
  | zero => omega
  | succ j ih =>
    simp only [State.storeRegs, State.memRead_memWrite]
    by_cases h : k = j
    · subst h; simp
    · rw [if_neg (by simp only [State.ea]; omega), ih (by omega) (by omega)]

theorem State.wf_storeRegs {s : State} (n : Nat) (h : Memory.wf s.mem = true) : Memory.wf (s.storeRegs n).mem = true := by
  induction n with
  | zero => exact h
  | succ k ih => exact State.wf_memWrite _ _ ih

theorem State.wf_storeDigits {s : State} (d : Byte × Byte × Byte) (h : Memory.wf s.mem = true) :
    Memory.wf (s.storeDigits d).mem = true :=
  State.wf_memWrite _ _ (State.wf_memWrite _ _ (State.wf_memWrite _ _ h))

/-- Storing digits changes memory alone. -/
theorem State.storeDigits_eq (s : State) (d : Byte × Byte × Byte) :
    s.storeDigits d = { s with mem := (s.storeDigits d).mem } := rfl

/-- Storing bytes changes memory alone. -/
theorem State.storeBytes_eq (s : State) (a : Nat) (bytes : List Byte) :
    s.storeBytes a bytes = { s with mem := (s.storeBytes a bytes).mem } := by
  induction bytes generalizing s a with
  | nil => rfl
  | cons b rest ih => simp only [State.storeBytes]; rw [ih]; rfl

/-- Memory after bytes are stored below 4096: they stand at their addresses, every other byte is as before (20_memory.md R62). -/
theorem State.storeBytes_memRead (s : State) (addr : Nat) (bytes : List Byte) (hl : addr + bytes.length ≤ 4096) {a : Nat}
    (ha : a < 4096) : (s.storeBytes addr bytes).memRead a =
      if addr ≤ a ∧ a < addr + bytes.length then bytes.getD (a - addr) 0 else s.memRead a := by
  induction bytes generalizing s addr with
  | nil => simp [State.storeBytes]
  | cons b rest ih =>
    simp only [List.length_cons] at hl
    simp only [State.storeBytes, List.length_cons]
    rw [ih _ _ (by omega), State.memRead_memWrite]
    by_cases h : a = addr
    · subst h; simp
    · by_cases h' : addr ≤ a ∧ a < addr + (rest.length + 1)
      · rw [if_pos (by omega), if_pos h']
        obtain ⟨d, rfl⟩ : ∃ d, a = addr + 1 + d := ⟨a - (addr + 1), by omega⟩
        rw [show addr + 1 + d - (addr + 1) = d by omega, show addr + 1 + d - addr = d + 1 by omega]; rfl
      · rw [if_neg (by omega), if_neg (by omega), if_neg h']

theorem State.wf_storeBytes {s : State} (a : Nat) (bytes : List Byte) (h : Memory.wf s.mem = true) :
    Memory.wf (s.storeBytes a bytes).mem = true := by
  induction bytes generalizing s a with
  | nil => exact h
  | cons b rest ih => exact ih (a + 1) (State.wf_memWrite a b h)

/-- A write on the `load` port is one memory write in the image's region, and refused below it (10_state.md R35, 20_memory.md R62). -/
theorem State.loadPort_cases (s : State) (addr : Addr) (data : Byte) :
    (0x200 ≤ addr.toNat ∧ s.loadPort addr data = .loaded (s.memWrite addr.toNat data)) ∨
    (addr.toNat < 0x200 ∧ s.loadPort addr data = .noAccess) := by
  unfold State.loadPort
  by_cases h : Config.progBase ≤ addr.toNat
  · exact .inl ⟨h, if_pos h⟩
  · exact .inr ⟨Nat.lt_of_not_le h, if_neg h⟩

/-- Any FONT_TABLE changes the state after reset in memory alone (20_memory.md R63). -/
theorem State.resetWith_eq (font : FontTable) : State.resetWith font = { State.reset with mem := (State.resetWith font).mem } :=
  State.storeBytes_eq _ _ _

theorem State.wf_resetWith (font : FontTable) : Memory.wf (State.resetWith font).mem = true := State.wf_storeBytes _ _ rfl

/-! ## The display (44_display.md) -/

/-- A pixel after one is inverted: that pixel changes, every other on the grid is as before. -/
theorem Framebuffer.toggle_pixel (f : Framebuffer) {px py x y : Nat} (hpx : px ≤ 63) (hpy : py ≤ 31) (hx : x ≤ 63) :
    Framebuffer.pixel (Framebuffer.toggle f px py) x y =
      (Framebuffer.pixel f x y ^^ decide (x = px ∧ y = py)) := by
  have h1 : 64 * py + px < 2048 := by omega
  have h2 : (64 * py + px = 64 * y + x) ↔ (x = px ∧ y = py) := by omega
  simp only [Framebuffer.pixel, Framebuffer.toggle, BitVec.getLsbD_xor, BitVec.getLsbD_twoPow, h1, h2, decide_true,
    Bool.true_and]

/-- What one sprite bit 1 does to a pixel of the grid. -/
theorem plot_pixel (px py : Nat) (acc : Framebuffer × Bool) {x y : Nat} (hx : x ≤ 63) (hy : y ≤ 31) :
    Framebuffer.pixel (plot px py acc).1 x y = (Framebuffer.pixel acc.1 x y ^^ decide (x = px ∧ y = py)) := by
  unfold plot
  split
  · rename_i h; exact Framebuffer.toggle_pixel acc.1 h.1 h.2 hx
  · rename_i h
    have : ¬(x = px ∧ y = py) := by rintro ⟨rfl, rfl⟩; exact h ⟨hx, hy⟩
    simp [this]

/-- What one sprite bit 1 does to the collision flag. -/
theorem plot_collision (px py : Nat) (acc : Framebuffer × Bool) :
    (plot px py acc).2 = (acc.2 || (decide (px ≤ 63 ∧ py ≤ 31) && Framebuffer.pixel acc.1 px py)) := by
  unfold plot
  split <;> simp_all

/-- A pixel after the first `n` columns of a sprite row are drawn (44_display.md R201). -/
theorem blitRow_pixel (row : Byte) (x0 py : Nat) (acc : Framebuffer × Bool) (n : Nat) {x y : Nat}
    (hx : x ≤ 63) (hy : y ≤ 31) :
    Framebuffer.pixel (blitRow row x0 py acc n).1 x y =
      (Framebuffer.pixel acc.1 x y ^^ (decide (x0 ≤ x ∧ x < x0 + n ∧ y = py) && row.getLsbD (7 - (x - x0)))) := by
  induction n with
  | zero => simp only [blitRow]; rw [decide_eq_false (by omega)]; simp
  | succ c ih =>
    simp only [blitRow]
    by_cases hb : row.getLsbD (7 - c) = true
    · rw [if_pos hb, plot_pixel _ _ _ hx hy, ih]
      by_cases he : x = x0 + c ∧ y = py
      · obtain ⟨rfl, rfl⟩ := he
        rw [decide_eq_false (by omega), decide_eq_true (by simp), decide_eq_true (by omega)]
        simp [hb]
      · rw [decide_eq_false he]
        have : (x0 ≤ x ∧ x < x0 + (c + 1) ∧ y = py) ↔ (x0 ≤ x ∧ x < x0 + c ∧ y = py) := by omega
        simp [this]
    · rw [if_neg hb, ih]
      by_cases he : x = x0 + c ∧ y = py
      · obtain ⟨rfl, rfl⟩ := he
        simp [hb]
      · have : (x0 ≤ x ∧ x < x0 + (c + 1) ∧ y = py) ↔ (x0 ≤ x ∧ x < x0 + c ∧ y = py) := by omega
        simp [this]

/-- The collision flag after the first `n` columns of a sprite row are drawn: raised before, or by a 1 bit over a set pixel of the grid
(44_display.md R202). -/
theorem blitRow_collision (row : Byte) (x0 py : Nat) (acc : Framebuffer × Bool) (n : Nat) :
    ((blitRow row x0 py acc n).2 = true ↔ acc.2 = true ∨ ∃ c < n, row.getLsbD (7 - c) = true ∧ x0 + c ≤ 63 ∧ py ≤ 31 ∧
       Framebuffer.pixel acc.1 (x0 + c) py = true) := by
  induction n with
  | zero => simp [blitRow]
  | succ c ih =>
    simp only [blitRow]
    have ex : (∃ k < c + 1, row.getLsbD (7 - k) = true ∧ x0 + k ≤ 63 ∧ py ≤ 31 ∧ Framebuffer.pixel acc.1 (x0 + k) py = true)
      ↔ (∃ k < c, row.getLsbD (7 - k) = true ∧ x0 + k ≤ 63 ∧ py ≤ 31 ∧ Framebuffer.pixel acc.1 (x0 + k) py = true) ∨
        (row.getLsbD (7 - c) = true ∧ x0 + c ≤ 63 ∧ py ≤ 31 ∧ Framebuffer.pixel acc.1 (x0 + c) py = true) := by
      constructor
      · rintro ⟨k, hk, h⟩
        rcases Nat.lt_succ_iff_lt_or_eq.1 hk with h' | rfl
        · exact .inl ⟨k, h', h⟩
        · exact .inr h
      · rintro (⟨k, hk, h⟩ | h)
        · exact ⟨k, by omega, h⟩
        · exact ⟨c, by omega, h⟩
    rw [ex]
    by_cases hb : row.getLsbD (7 - c) = true
    · rw [if_pos hb, plot_collision]
      by_cases hg : x0 + c ≤ 63 ∧ py ≤ 31
      · rw [blitRow_pixel _ _ _ _ _ hg.1 hg.2]
        rw [decide_eq_false (p := x0 ≤ x0 + c ∧ x0 + c < x0 + c ∧ py = py) (by omega)]
        simp only [Bool.or_eq_true, ih, hb, hg.1, hg.2]
        simp [or_assoc]
      · rw [decide_eq_false hg]
        simp only [Bool.false_and, Bool.or_false, ih]
        constructor
        · rintro (h | h); exacts [.inl h, .inr (.inl h)]
        · rintro (h | h | h); exacts [.inl h, .inr h, absurd ⟨h.2.1, h.2.2.1⟩ hg]
    · rw [if_neg hb, ih]; simp [hb]

/-! ## The keypad (45_keypad_timers.md R225) -/

/-- The key scan finds the least pressed key, or none is pressed. -/
theorem State.lowestKey_cases (s : State) :
    (∃ k, k < 16 ∧ s.key k = true ∧ (∀ j < k, s.key j = false) ∧ s.lowestKey = some k) ∨
    ((∀ k < 16, s.key k = false) ∧ s.lowestKey = none) := by
  unfold State.lowestKey
  cases h : (List.range 16).find? fun k => s.key k with
  | none => exact .inr ⟨by simpa using h, rfl⟩
  | some k =>
    rw [List.find?_range_eq_some] at h
    exact .inl ⟨k, by simpa using h.2.1, h.1, fun j hj => by simpa using h.2.2 j hj, rfl⟩

end Sys2Proof.Machine
end

