-- ==== Sys2Proof/Laws/PerInstr.lean ====
section
/-! SUPPORT. Per instruction: the encoder's word of an instruction selects the row of the opcode map that bears its mnemonic
(spec/30_encoding.md R84). -/

namespace Sys2Proof.Laws

/-- The word of `i` selects the row of `i`'s mnemonic. -/
def TableRow.Statement (i : Instr) : Prop :=
  ∃ r ∈ opcodeRows, r.mnemonic = mnemonicOf i ∧ rowSelects (encode i) r = true

/-- A row of the map whose mask leaves its value of the word. -/
theorem tableRow_of {i : Instr} (mask value : Word) (hm : ⟨mnemonicOf i, mask, value⟩ ∈ opcodeRows)
    (hw : encode i &&& mask = value) : TableRow.Statement i :=
  ⟨⟨mnemonicOf i, mask, value⟩, hm, rfl, by simp [rowSelects, hw]⟩

/-- Every instruction's row, by cases on the constructor: the row of R84 and the mask lemma of its format. -/
theorem tableRow_all (i : Instr) : TableRow.Statement i := by
  cases i
  case cls => exact tableRow_of 0xF00F#16 0x0000#16 (by simp only [mnemonicOf]; decide) (formatXYN_maskF00F _ _ _ _)
  case ret => exact tableRow_of 0xF00F#16 0x000E#16 (by simp only [mnemonicOf]; decide) (formatXYN_maskF00F _ _ _ _)
  case jp => exact tableRow_of 0xF000#16 0x1000#16 (by simp only [mnemonicOf]; decide) (formatA_mask _ _)
  case call => exact tableRow_of 0xF000#16 0x2000#16 (by simp only [mnemonicOf]; decide) (formatA_mask _ _)
  case seByte => exact tableRow_of 0xF000#16 0x3000#16 (by simp only [mnemonicOf]; decide) (formatXK_maskF000 _ _ _)
  case sneByte => exact tableRow_of 0xF000#16 0x4000#16 (by simp only [mnemonicOf]; decide) (formatXK_maskF000 _ _ _)
  case seReg => exact tableRow_of 0xF000#16 0x5000#16 (by simp only [mnemonicOf]; decide) (formatXYN_maskF000 _ _ _ _)
  case sneReg => exact tableRow_of 0xF000#16 0x9000#16 (by simp only [mnemonicOf]; decide) (formatXYN_maskF000 _ _ _ _)
  case ldByte => exact tableRow_of 0xF000#16 0x6000#16 (by simp only [mnemonicOf]; decide) (formatXK_maskF000 _ _ _)
  case addByte => exact tableRow_of 0xF000#16 0x7000#16 (by simp only [mnemonicOf]; decide) (formatXK_maskF000 _ _ _)
  case ldReg => exact tableRow_of 0xF00F#16 0x8000#16 (by simp only [mnemonicOf]; decide) (formatXYN_maskF00F _ _ _ _)
  case orReg => exact tableRow_of 0xF00F#16 0x8001#16 (by simp only [mnemonicOf]; decide) (formatXYN_maskF00F _ _ _ _)
  case andReg => exact tableRow_of 0xF00F#16 0x8002#16 (by simp only [mnemonicOf]; decide) (formatXYN_maskF00F _ _ _ _)
  case xorReg => exact tableRow_of 0xF00F#16 0x8003#16 (by simp only [mnemonicOf]; decide) (formatXYN_maskF00F _ _ _ _)
  case addReg => exact tableRow_of 0xF00F#16 0x8004#16 (by simp only [mnemonicOf]; decide) (formatXYN_maskF00F _ _ _ _)
  case subReg => exact tableRow_of 0xF00F#16 0x8005#16 (by simp only [mnemonicOf]; decide) (formatXYN_maskF00F _ _ _ _)
  case shr => exact tableRow_of 0xF00F#16 0x8006#16 (by simp only [mnemonicOf]; decide) (formatXYN_maskF00F _ _ _ _)
  case subnReg => exact tableRow_of 0xF00F#16 0x8007#16 (by simp only [mnemonicOf]; decide) (formatXYN_maskF00F _ _ _ _)
  case shl => exact tableRow_of 0xF00F#16 0x800E#16 (by simp only [mnemonicOf]; decide) (formatXYN_maskF00F _ _ _ _)
  case ldI => exact tableRow_of 0xF000#16 0xA000#16 (by simp only [mnemonicOf]; decide) (formatA_mask _ _)
  case jpV0 => exact tableRow_of 0xF000#16 0xB000#16 (by simp only [mnemonicOf]; decide) (formatA_mask _ _)
  case rnd => exact tableRow_of 0xF000#16 0xC000#16 (by simp only [mnemonicOf]; decide) (formatXK_maskF000 _ _ _)
  case drw => exact tableRow_of 0xF000#16 0xD000#16 (by simp only [mnemonicOf]; decide) (formatXYN_maskF000 _ _ _ _)
  case skp => exact tableRow_of 0xF0FF#16 0xE09E#16 (by simp only [mnemonicOf]; decide) (formatXK_maskF0FF _ _ _)
  case sknp => exact tableRow_of 0xF0FF#16 0xE0A1#16 (by simp only [mnemonicOf]; decide) (formatXK_maskF0FF _ _ _)
  case ldVxDT => exact tableRow_of 0xF0FF#16 0xF007#16 (by simp only [mnemonicOf]; decide) (formatXK_maskF0FF _ _ _)
  case ldDTVx => exact tableRow_of 0xF0FF#16 0xF015#16 (by simp only [mnemonicOf]; decide) (formatXK_maskF0FF _ _ _)
  case ldSTVx => exact tableRow_of 0xF0FF#16 0xF018#16 (by simp only [mnemonicOf]; decide) (formatXK_maskF0FF _ _ _)
  case addIVx => exact tableRow_of 0xF0FF#16 0xF01E#16 (by simp only [mnemonicOf]; decide) (formatXK_maskF0FF _ _ _)
  case ldFVx => exact tableRow_of 0xF0FF#16 0xF029#16 (by simp only [mnemonicOf]; decide) (formatXK_maskF0FF _ _ _)
  case ldBVx => exact tableRow_of 0xF0FF#16 0xF033#16 (by simp only [mnemonicOf]; decide) (formatXK_maskF0FF _ _ _)
  case ldMemVx => exact tableRow_of 0xF0FF#16 0xF055#16 (by simp only [mnemonicOf]; decide) (formatXK_maskF0FF _ _ _)
  case ldVxMem => exact tableRow_of 0xF0FF#16 0xF065#16 (by simp only [mnemonicOf]; decide) (formatXK_maskF0FF _ _ _)
  case ldVxK => exact tableRow_of 0xF0FF#16 0xF00A#16 (by simp only [mnemonicOf]; decide) (formatXK_maskF0FF _ _ _)

theorem TableRow.cls : TableRow.Statement .cls := tableRow_all _
theorem TableRow.ret : TableRow.Statement .ret := tableRow_all _
theorem TableRow.jp (nnn : Addr) : TableRow.Statement (.jp nnn) := tableRow_all _
theorem TableRow.call (nnn : Addr) : TableRow.Statement (.call nnn) := tableRow_all _
theorem TableRow.seByte (x : RegIx) (kk : Byte) : TableRow.Statement (.seByte x kk) := tableRow_all _
theorem TableRow.sneByte (x : RegIx) (kk : Byte) : TableRow.Statement (.sneByte x kk) := tableRow_all _
theorem TableRow.seReg (x : RegIx) (y : RegIx) : TableRow.Statement (.seReg x y) := tableRow_all _
theorem TableRow.sneReg (x : RegIx) (y : RegIx) : TableRow.Statement (.sneReg x y) := tableRow_all _
theorem TableRow.ldByte (x : RegIx) (kk : Byte) : TableRow.Statement (.ldByte x kk) := tableRow_all _
theorem TableRow.addByte (x : RegIx) (kk : Byte) : TableRow.Statement (.addByte x kk) := tableRow_all _
theorem TableRow.ldReg (x : RegIx) (y : RegIx) : TableRow.Statement (.ldReg x y) := tableRow_all _
theorem TableRow.orReg (x : RegIx) (y : RegIx) : TableRow.Statement (.orReg x y) := tableRow_all _
theorem TableRow.andReg (x : RegIx) (y : RegIx) : TableRow.Statement (.andReg x y) := tableRow_all _
theorem TableRow.xorReg (x : RegIx) (y : RegIx) : TableRow.Statement (.xorReg x y) := tableRow_all _
theorem TableRow.addReg (x : RegIx) (y : RegIx) : TableRow.Statement (.addReg x y) := tableRow_all _
theorem TableRow.subReg (x : RegIx) (y : RegIx) : TableRow.Statement (.subReg x y) := tableRow_all _
theorem TableRow.shr (x : RegIx) : TableRow.Statement (.shr x) := tableRow_all _
theorem TableRow.subnReg (x : RegIx) (y : RegIx) : TableRow.Statement (.subnReg x y) := tableRow_all _
theorem TableRow.shl (x : RegIx) : TableRow.Statement (.shl x) := tableRow_all _
theorem TableRow.ldI (nnn : Addr) : TableRow.Statement (.ldI nnn) := tableRow_all _
theorem TableRow.jpV0 (nnn : Addr) : TableRow.Statement (.jpV0 nnn) := tableRow_all _
theorem TableRow.rnd (x : RegIx) (kk : Byte) : TableRow.Statement (.rnd x kk) := tableRow_all _
theorem TableRow.drw (x : RegIx) (y : RegIx) (n : Nibble) : TableRow.Statement (.drw x y n) := tableRow_all _
theorem TableRow.skp (x : RegIx) : TableRow.Statement (.skp x) := tableRow_all _
theorem TableRow.sknp (x : RegIx) : TableRow.Statement (.sknp x) := tableRow_all _
theorem TableRow.ldVxDT (x : RegIx) : TableRow.Statement (.ldVxDT x) := tableRow_all _
theorem TableRow.ldDTVx (x : RegIx) : TableRow.Statement (.ldDTVx x) := tableRow_all _
theorem TableRow.ldSTVx (x : RegIx) : TableRow.Statement (.ldSTVx x) := tableRow_all _
theorem TableRow.addIVx (x : RegIx) : TableRow.Statement (.addIVx x) := tableRow_all _
theorem TableRow.ldFVx (x : RegIx) : TableRow.Statement (.ldFVx x) := tableRow_all _
theorem TableRow.ldBVx (x : RegIx) : TableRow.Statement (.ldBVx x) := tableRow_all _
theorem TableRow.ldMemVx (x : RegIx) : TableRow.Statement (.ldMemVx x) := tableRow_all _
theorem TableRow.ldVxMem (x : RegIx) : TableRow.Statement (.ldVxMem x) := tableRow_all _
theorem TableRow.ldVxK (x : RegIx) : TableRow.Statement (.ldVxK x) := tableRow_all _

end Sys2Proof.Laws
end

