-- ==== Sys2Proof/Tests/Slice0.lean ====
section
/-! SUPPORT. Tests and witnesses. Expected results come from spec/95_test_vectors.md (the vector's id stands with each), or from
the "Example" of the instruction's rule, or are words written out from the formats of 30_encoding.md R82 and R84. `Elab.async` is off
in this file because one thread per theorem asks for more address space than the checks allow. -/

namespace Sys2Proof.Tests

set_option Elab.async false

open Sys2Proof Sys2Proof.Machine

/-! ## WellFormed: an ill-formed term for each check -/

theorem test_wellFormed_refuses_what_does_not_fit :
    regFits 16 = false ∧ byteFits 256 = false ∧ addrFits 4096 = false ∧ nibbleFits 16 = false ∧
    regFits 15 = true ∧ byteFits 255 = true ∧ addrFits 4095 = true ∧ nibbleFits 15 = true := by decide

/-- X6: an image of 3585 bytes is refused, one of 3584 is not. -/
theorem test_wellFormed_image_size :
    imageFits (List.replicate 3585 0xFF) = false ∧ imageFits (List.replicate 3584 0xFF) = true := by
  rw [imageFits, imageFits, List.length_replicate, List.length_replicate]; decide

/-- Every instruction passes: the operand types are the fields' own widths. -/
theorem test_every_instruction_is_wellFormed (i : Instr) : i.wellFormed = true := by
  have h4 : ∀ x : BitVec 4, x.toNat < 16 := fun x => x.isLt
  have h8 : ∀ x : BitVec 8, x.toNat < 256 := fun x => x.isLt
  have h12 : ∀ x : BitVec 12, x.toNat < 4096 := fun x => x.isLt
  cases i <;> simp [Instr.wellFormed, regFits, byteFits, addrFits, nibbleFits, h4, h8, h12]

/-! ## Decoding: a word of every constructor, bit by bit from its format; the word is OP, X, Y, N in binary -/

/-- Family 0, R82 format Z: OP 0000, bits 11..4 ignored, N 0000 or 1110. -/
theorem test_decode_family_0 :
    decodeBytes 0b00000000 0b11100000 = .instr .cls ∧ decodeBytes 0b00000001 0b00100000 = .instr .cls ∧
    decodeBytes 0b00000000 0b11101110 = .instr .ret ∧ decodeBytes 0b00001010 0b10111110 = .instr .ret := by decide

/-- Formats A: OP 0001, 0010, 1010, 1011, then NNN. -/
theorem test_decode_format_A :
    decodeBytes 0b00010010 0b00110100 = .instr (.jp 0x234) ∧ decodeBytes 0b00101111 0b11111110 = .instr (.call 0xFFE) ∧
    decodeBytes 0b10100011 0b00000001 = .instr (.ldI 0x301) ∧ decodeBytes 0b10111111 0b11111111 = .instr (.jpV0 0xFFF) := by decide

/-- Format XK: OP 0011, 0100, 0110, 0111, 1100, then X, KK. -/
theorem test_decode_format_XK :
    decodeBytes 0b00110001 0b10000001 = .instr (.seByte 1 0x81) ∧ decodeBytes 0b01000010 0b00000111 = .instr (.sneByte 2 0x07) ∧
    decodeBytes 0b01101010 0b01010101 = .instr (.ldByte 10 0x55) ∧ decodeBytes 0b01111111 0b00000001 = .instr (.addByte 15 0x01) ∧
    decodeBytes 0b11000011 0b00001111 = .instr (.rnd 3 0x0F) := by decide

/-- Formats XY and XYN: OP 0101 and 1001 (N ignored, T8 and T9), OP 1101. -/
theorem test_decode_format_XY :
    decodeBytes 0b01010011 0b01000000 = .instr (.seReg 3 4) ∧ decodeBytes 0b01010001 0b00100001 = .instr (.seReg 1 2) ∧
    decodeBytes 0b10010011 0b01000000 = .instr (.sneReg 3 4) ∧ decodeBytes 0b10011010 0b10111111 = .instr (.sneReg 10 11) ∧
    decodeBytes 0b11010001 0b00101111 = .instr (.drw 1 2 15) := by decide

/-- Format XYF: OP 1000, then X, Y and the function code N. -/
theorem test_decode_family_8 :
    decodeBytes 0b10000001 0b00100000 = .instr (.ldReg 1 2) ∧ decodeBytes 0b10000001 0b00100001 = .instr (.orReg 1 2) ∧
    decodeBytes 0b10000001 0b00100010 = .instr (.andReg 1 2) ∧ decodeBytes 0b10000001 0b00100011 = .instr (.xorReg 1 2) ∧
    decodeBytes 0b10000000 0b00010100 = .instr (.addReg 0 1) ∧ decodeBytes 0b10000001 0b00100101 = .instr (.subReg 1 2) ∧
    decodeBytes 0b10000001 0b00100110 = .instr (.shr 1) ∧ decodeBytes 0b10000001 0b00100111 = .instr (.subnReg 1 2) ∧
    decodeBytes 0b10000001 0b00101110 = .instr (.shl 1) := by decide

/-- Format XF, family E: OP 1110, X, then 9E or A1. -/
theorem test_decode_family_E :
    decodeBytes 0b11100001 0b10011110 = .instr (.skp 1) ∧ decodeBytes 0b11100001 0b10100001 = .instr (.sknp 1) := by decide

/-- Format XF, family F: OP 1111, X, then the function code. -/
theorem test_decode_family_F :
    decodeBytes 0b11110011 0b00000111 = .instr (.ldVxDT 3) ∧ decodeBytes 0b11110010 0b00001010 = .instr (.ldVxK 2) ∧
    decodeBytes 0b11110011 0b00010101 = .instr (.ldDTVx 3) ∧ decodeBytes 0b11110011 0b00011000 = .instr (.ldSTVx 3) ∧
    decodeBytes 0b11110010 0b00011110 = .instr (.addIVx 2) ∧ decodeBytes 0b11110100 0b00101001 = .instr (.ldFVx 4) ∧
    decodeBytes 0b11110011 0b00110011 = .instr (.ldBVx 3) ∧ decodeBytes 0b11110010 0b01010101 = .instr (.ldMemVx 2) ∧
    decodeBytes 0b11110100 0b01100101 = .instr (.ldVxMem 4) := by decide

/-- T1, T4, T6, T7: unrecognised words, by their dispatch keys. -/
theorem test_decode_unrecognised :
    decodeBytes 0x80 0x1F = .unrecognised 0x800F ∧ decodeBytes 0x00 0x01 = .unrecognised 0x0001 ∧
    decodeBytes 0xE1 0x9F = .unrecognised 0xE09F ∧ decodeBytes 0xF1 0xFF = .unrecognised 0xF0FF := by decide

/-- A table word is laid out most significant byte first, and a reserved one is refused. -/
theorem test_decodeTableWord :
    decodeTableWord 16 0xD125 = some (.drw 1 2 5) ∧ decodeTableWord 16 0x00E0 = some .cls ∧ decodeTableWord 16 0x8008 = none := by decide

/-! ## One step -/

/-- The reset state with one instruction word stored at the pc. -/
def placed (w : Nat) : State := State.reset.withFetchWord 16 w

/-- The same with another pc. -/
def placedAt (pc : Word) (w : Nat) : State := (State.reset.setPc pc).withFetchWord 16 w

/-- The step answers a next state that passes the check. -/
def stepsTo (s : State) (check : State → Bool) : Bool :=
  match step s with
  | .next t => check t
  | .fault _ => false
  | .refused _ => false

/-- Both of two steps complete, and the state after the second passes the check. -/
def stepsTwiceTo (s : State) (check : State → Bool) : Bool := stepsTo s fun t => stepsTo t check

/-- A display with exactly these pixels (x, y) set. -/
def lit (pixels : List (Nat × Nat)) : Framebuffer := pixels.foldl (fun f p => Framebuffer.toggle f p.1 p.2) 0

/-- `n` slots of the stack occupied, the first by `a`. -/
def nested (s : State) (n : Fin 17) (a : Word) : State := { s with sp := n, stack := s.stack.set 0 a }

/-- All sixteen keys, or some, pressed. -/
def keyed (s : State) (keys : BitVec 16) : State := { s with keys := keys }

/-! ### Step cycle -/

/-- T1; T4: a no-op step ticks both timers. -/
theorem test_unrecognised : stepsTo (placed 0x801F) (fun t => decide (t = { placed 0x801F with pc := 0x202 })) = true ∧
    stepsTo (((placed 0x0001).setDT 3).setST 1) (fun t => t.pc == 0x202 && t.dt == 2 && t.st == 0) = true := by decide +kernel

/-- T10: the second byte wraps to address 0; T11: fetch at pc modulo 4096, pc + 2 wraps. -/
theorem test_fetch_wraps :
    stepsTo (placedAt 0x0FFF 0x6A55) (fun t => t.reg 10 == 0x55 && t.pc == 0x1001) = true ∧
    (placedAt 0x0FFF 0x6A55).memRead 0 = 0x55 ∧
    stepsTo (placedAt 0xFFFE 0x6A77) (fun t => t.reg 10 == 0x77 && t.pc == 0x0000) = true := by decide +kernel

/-! ### Control transfer -/

/-- F1; T5. -/
theorem test_ret : stepsTo (nested (placedAt 0x300 0x00EE) 1 0x204) (fun t => t.pc == 0x204 && t.sp == 0 && t.stack[0] == 0x204) = true ∧
    stepsTo (nested (placed 0x0ABE) 1 0x456) (fun t => t.pc == 0x456 && t.sp == 0) = true := by decide +kernel
/-- F2, X4: underflow is precise. -/
theorem test_ret_underflow : stepsTo ((placed 0x00EE).setDT 5) (fun t =>
    decide (t = { (placed 0x00EE).setDT 5 with fault := .stackUnderflow })) = true := by decide +kernel
/-- F3; F4. -/
theorem test_jp : stepsTo (placed 0x1234) (fun t => t.pc == 0x234) = true ∧
    stepsTo (placed 0x1200) (fun t => decide (t = placed 0x1200)) = true := by decide +kernel
/-- F5; F6: the sixteenth call is legal; F21: the pushed pc wraps. -/
theorem test_call : stepsTo (placed 0x2300) (fun t => t.pc == 0x300 && t.sp == 1 && t.stack[0] == 0x202) = true ∧
    stepsTo (nested (placed 0x2300) 15 0) (fun t => t.pc == 0x300 && t.sp == 16 && t.stack[15] == 0x202) = true ∧
    stepsTo (placedAt 0xFFFE 0x2300) (fun t => t.pc == 0x300 && t.stack[0] == 0) = true := by decide +kernel
/-- F7, X2: overflow is precise. -/
theorem test_call_overflow : stepsTo ((nested (placed 0x2300) 16 0x202).setDT 5) (fun t =>
    decide (t = { (nested (placed 0x2300) 16 0x202).setDT 5 with fault := .stackOverflow })) = true := by decide +kernel
/-- F8, F9; F20: a skip wraps. -/
theorem test_seByte : stepsTo (placedAt 0x208 0x3100) (fun t => t.pc == 0x20C) = true ∧
    stepsTo ((placedAt 0x208 0x3100).setReg 1 1) (fun t => t.pc == 0x20A) = true ∧
    stepsTo (placedAt 0xFFFC 0x3100) (fun t => t.pc == 0) = true := by decide +kernel
/-- F10; F11. -/
theorem test_sneByte : stepsTo ((placed 0x4207).setReg 2 7) (fun t => t.pc == 0x202) = true ∧
    stepsTo ((placed 0x4208).setReg 2 7) (fun t => t.pc == 0x204) = true := by decide +kernel
/-- F12; F13; F14. -/
theorem test_seReg : stepsTo (((placed 0x5340).setReg 3 0x2A).setReg 4 0x2A) (fun t => t.pc == 0x204) = true ∧
    stepsTo (((placed 0x5340).setReg 3 0x2A).setReg 4 0x2B) (fun t => t.pc == 0x202) = true ∧
    stepsTo (placed 0x5330) (fun t => t.pc == 0x204) = true := by decide +kernel
/-- F15; F16. -/
theorem test_sneReg : stepsTo (((placed 0x9340).setReg 3 1).setReg 4 2) (fun t => t.pc == 0x204) = true ∧
    stepsTo (((placed 0x9340).setReg 3 2).setReg 4 2) (fun t => t.pc == 0x202) = true := by decide +kernel
/-- F17; F18: the sum keeps 16 bits. -/
theorem test_jpV0 : stepsTo ((placed 0xB300).setReg 0 4) (fun t => t.pc == 0x304) = true ∧
    stepsTo ((placed 0xBFFF).setReg 0 0xFF) (fun t => t.pc == 0x10FE) = true := by decide +kernel

/-! ### Registers and the ALU -/

/-- A1; A2. -/
theorem test_ldByte : stepsTo (placed 0x6005) (fun t => t.reg 0 == 5 && t.pc == 0x202) = true ∧
    stepsTo (placed 0x6F07) (fun t => t.reg 15 == 7) = true := by decide +kernel
/-- A3; A4: wrap, no flag; A6. -/
theorem test_addByte : stepsTo ((placed 0x7005).setReg 0 5) (fun t => t.reg 0 == 0x0A) = true ∧
    stepsTo ((placed 0x7001).setReg 0 0xFF) (fun t => t.reg 0 == 0 && t.reg 15 == 0) = true ∧
    stepsTo ((placed 0x7F01).setReg 15 0xFF) (fun t => t.reg 15 == 0) = true := by decide +kernel
/-- A7. -/
theorem test_ldReg : stepsTo ((placed 0x8120).setReg 2 0x7C) (fun t => t.reg 1 == 0x7C && t.reg 2 == 0x7C) = true := by decide +kernel
/-- A8: VF stays. -/
theorem test_orReg : stepsTo ((((placed 0x8121).setReg 1 0xF0).setReg 2 0x0F).setReg 15 1)
    (fun t => t.reg 1 == 0xFF && t.reg 15 == 1) = true := by decide +kernel
/-- A9. -/
theorem test_andReg : stepsTo ((((placed 0x8122).setReg 1 0xF0).setReg 2 0x3C).setReg 15 1)
    (fun t => t.reg 1 == 0x30 && t.reg 15 == 1) = true := by decide +kernel
/-- A10; A11. -/
theorem test_xorReg : stepsTo ((((placed 0x8123).setReg 1 0xF0).setReg 2 0x3C).setReg 15 1)
    (fun t => t.reg 1 == 0xCC && t.reg 15 == 1) = true ∧
    stepsTo ((placed 0x8113).setReg 1 0xF0) (fun t => t.reg 1 == 0) = true := by decide +kernel
/-- A12; A15: 255 is no carry. -/
theorem test_addReg : stepsTo (((placed 0x8014).setReg 0 0xC8).setReg 1 0x64) (fun t => t.reg 0 == 0x2C && t.reg 15 == 1) = true ∧
    stepsTo ((((placed 0x8014).setReg 0 0x80).setReg 1 0x7F).setReg 15 1) (fun t => t.reg 0 == 0xFF && t.reg 15 == 0) = true := by
  decide +kernel
/-- A17: X = F, the result overwrites the carry; A18: Y = F, the old VF is the operand. -/
theorem test_addReg_VF : stepsTo (((placed 0x8F14).setReg 15 0xF0).setReg 1 0x20) (fun t => t.reg 15 == 0x10) = true ∧
    stepsTo (((placed 0x81F4).setReg 1 0xFF).setReg 15 1) (fun t => t.reg 1 == 0 && t.reg 15 == 1) = true := by decide +kernel
/-- A19; A20; A21: equal operands clear VF. -/
theorem test_subReg : stepsTo (((placed 0x8125).setReg 1 5).setReg 2 3) (fun t => t.reg 1 == 2 && t.reg 15 == 1) = true ∧
    stepsTo ((((placed 0x8125).setReg 1 3).setReg 2 5).setReg 15 1) (fun t => t.reg 1 == 0xFE && t.reg 15 == 0) = true ∧
    stepsTo ((((placed 0x8125).setReg 1 5).setReg 2 5).setReg 15 1) (fun t => t.reg 1 == 0 && t.reg 15 == 0) = true := by
  decide +kernel
/-- A23; A24. -/
theorem test_subReg_VF : stepsTo (((placed 0x81F5).setReg 1 5).setReg 15 3) (fun t => t.reg 1 == 2 && t.reg 15 == 1) = true ∧
    stepsTo (((placed 0x8F15).setReg 15 5).setReg 1 3) (fun t => t.reg 15 == 2) = true := by decide +kernel
/-- A25; A26: Vy is ignored; A28. -/
theorem test_shr : stepsTo ((placed 0x8106).setReg 1 5) (fun t => t.reg 1 == 2 && t.reg 15 == 1) = true ∧
    stepsTo ((((placed 0x8126).setReg 1 4).setReg 2 0xFF).setReg 15 1)
      (fun t => t.reg 1 == 2 && t.reg 15 == 0 && t.reg 2 == 0xFF) = true ∧
    stepsTo ((placed 0x8F06).setReg 15 3) (fun t => t.reg 15 == 1) = true := by decide +kernel
/-- A29; A30; A31. -/
theorem test_subnReg : stepsTo (((placed 0x8127).setReg 1 3).setReg 2 5) (fun t => t.reg 1 == 2 && t.reg 15 == 1) = true ∧
    stepsTo ((((placed 0x8127).setReg 1 5).setReg 2 3).setReg 15 1) (fun t => t.reg 1 == 0xFE && t.reg 15 == 0) = true ∧
    stepsTo ((((placed 0x8127).setReg 1 5).setReg 2 5).setReg 15 1) (fun t => t.reg 1 == 0 && t.reg 15 == 0) = true := by
  decide +kernel
/-- A33; A34; A36. -/
theorem test_shl : stepsTo ((placed 0x810E).setReg 1 0x81) (fun t => t.reg 1 == 2 && t.reg 15 == 1) = true ∧
    stepsTo ((((placed 0x812E).setReg 1 0x7F).setReg 2 0xFF).setReg 15 1)
      (fun t => t.reg 1 == 0xFE && t.reg 15 == 0 && t.reg 2 == 0xFF) = true ∧
    stepsTo ((placed 0x8F0E).setReg 15 0x81) (fun t => t.reg 15 == 2) = true := by decide +kernel
/-- A37: with a draw of 0xA7, whatever the free value is, V3 = 0x07; one byte is consumed. -/
theorem test_rnd (h : Config.rnd 0 = 0xA7#8) :
    ∃ t, exec (.rnd 3 0x0F) State.reset = .next t ∧ t.reg 3 = 0x07#8 ∧ t.draws = 1 :=
  ⟨_, rfl, (show (Config.rnd 0 &&& 0x0F#8) = 0x07#8 by rw [h]; decide), rfl⟩
/-- A38: a mask of 0 gives 0 whatever the draw. -/
theorem test_rnd_zero_mask : ∃ t, step ((placed 0xC300).setReg 3 0x55) = .next t ∧ t.reg 3 = 0#8 :=
  ⟨_, rfl, BitVec.and_zero⟩

/-! ### The index register and memory -/

/-- I1; I2. -/
theorem test_ldI : stepsTo (placed 0xA300) (fun t => t.index == 0x300) = true ∧
    stepsTo (placed 0xAFFF) (fun t => t.index == 0xFFF) = true := by decide +kernel
/-- I4: I passes 0x0FFF, no flag; I5: it wraps modulo 65536. -/
theorem test_addIVx : stepsTo (((placed 0xF21E).setIndex 0xFFF).setReg 2 1) (fun t => t.index == 0x1000 && t.reg 15 == 0) = true ∧
    stepsTo (((placed 0xF21E).setIndex 0xFFFF).setReg 2 2) (fun t => t.index == 1) = true := by decide +kernel
/-- I6; I7; I8: Vx is not masked. -/
theorem test_ldFVx : stepsTo ((placed 0xF429).setReg 4 10) (fun t => t.index == 0x82) = true ∧
    stepsTo ((placed 0xF429).setReg 4 0x10) (fun t => t.index == 0xA0) = true ∧
    stepsTo ((placed 0xF429).setReg 4 0xFF) (fun t => t.index == 0x54B) = true := by decide +kernel
/-- I10; I11: each address wraps. -/
theorem test_ldBVx : stepsTo (((placed 0xF333).setReg 3 234).setIndex 0x300)
      (fun t => t.memRead 0x300 == 2 && t.memRead 0x301 == 3 && t.memRead 0x302 == 4 && t.index == 0x300) = true ∧
    stepsTo (((placed 0xF333).setReg 3 255).setIndex 0xFFE)
      (fun t => t.memRead 0xFFE == 2 && t.memRead 0xFFF == 5 && t.memRead 0 == 5) = true := by decide +kernel
/-- I12: leading zeros are stored. -/
theorem test_ldBVx_zeros : stepsTo (((((placed 0xF333).setReg 3 9).setIndex 0x300).memWrite 0x300 7).memWrite 0x301 7)
      (fun t => t.memRead 0x300 == 0 && t.memRead 0x301 == 0 && t.memRead 0x302 == 9) = true := by decide +kernel
/-- I14: X + 1 bytes, I unchanged. -/
theorem test_ldMemVx : stepsTo (((((placed 0xF255).setIndex 0x300).setReg 0 0x11).setReg 1 0x22).setReg 2 0x33 |>.setReg 3 0x44)
      (fun t => t.memRead 0x300 == 0x11 && t.memRead 0x301 == 0x22 && t.memRead 0x302 == 0x33 && t.memRead 0x303 == 0 &&
        t.index == 0x300) = true := by decide +kernel
/-- I16: wrap; I22: I of 0x1000 or more. -/
theorem test_ldMemVx_wraps : stepsTo ((((placed 0xF155).setIndex 0xFFF).setReg 0 0xAB).setReg 1 0xCD)
      (fun t => t.memRead 0xFFF == 0xAB && t.memRead 0 == 0xCD) = true ∧
    stepsTo (((placed 0xF055).setIndex 0x1300).setReg 0 0x5A) (fun t => t.memRead 0x300 == 0x5A) = true := by decide +kernel
/-- I18: glyph 0 of the default font. -/
theorem test_ldVxMem : stepsTo ((placed 0xF465).setIndex 0x50) (fun t =>
    t.reg 0 == 0xF0 && t.reg 1 == 0x90 && t.reg 2 == 0x90 && t.reg 3 == 0x90 && t.reg 4 == 0xF0 && t.reg 5 == 0) = true := by
  decide +kernel
/-- I20: all sixteen, VF as data (the last two bytes only); I19: wrap. -/
theorem test_ldVxMem_all : stepsTo (((((placed 0xFF65).setIndex 0x400).memWrite 0x40E 0xAE).memWrite 0x40F 0xAF))
      (fun t => t.reg 14 == 0xAE && t.reg 15 == 0xAF && t.index == 0x400) = true ∧
    stepsTo ((((placed 0xF165).setIndex 0xFFF).memWrite 0xFFF 0x12).memWrite 0 0x34) (fun t => t.reg 0 == 0x12 && t.reg 1 == 0x34) =
      true := by decide +kernel

/-! ### The display -/

/-- G1, T2: VF stays, and 0x0000 is CLS too. -/
theorem test_cls : stepsTo (((placed 0x00E0).setFb (lit [(0, 0), (10, 3), (63, 31)])).setReg 15 1)
      (fun t => t.fb == 0 && t.reg 15 == 1) = true ∧
    stepsTo ((placed 0x0000).setFb (lit [(0, 0), (63, 31)])) (fun t => t.fb == 0) = true := by decide +kernel
/-- G2, G3: draw, then collide; G10: start wrapped, second pixel clipped; G13: placed by the old VF. -/
theorem test_drw : stepsTo (((((placed 0xD011).setIndex 0x300).memWrite 0x300 0x80).setReg 0 10).setReg 1 5)
      (fun t => t.fb == lit [(10, 5)] && t.reg 15 == 0) = true ∧
    stepsTo ((((((placed 0xD011).setIndex 0x300).memWrite 0x300 0x80).setReg 0 10).setReg 1 5).setFb (lit [(10, 5)]))
      (fun t => t.fb == 0 && t.reg 15 == 1) = true ∧
    stepsTo (((((placed 0xD011).setIndex 0x300).memWrite 0x300 0xC0).setReg 0 255).setReg 1 255)
      (fun t => t.fb == lit [(63, 31)] && t.reg 15 == 0) = true ∧
    stepsTo (((((placed 0xDF11).setIndex 0x300).memWrite 0x300 0x80).setReg 15 3).setReg 1 2)
      (fun t => t.fb == lit [(3, 2)] && t.reg 15 == 0) = true := by decide +kernel
/-- G4: glyph 0 at the origin; N = 0 draws nothing and clears VF (R202 a). -/
theorem test_drw_glyph : stepsTo ((placed 0xD015).setIndex 0x50)
      (fun t => t.fb == lit ([(0, 0), (1, 0), (2, 0), (3, 0), (0, 1), (3, 1), (0, 2), (3, 2)] ++
        [(0, 3), (3, 3), (0, 4), (1, 4), (2, 4), (3, 4)]) && t.reg 15 == 0) = true ∧
    stepsTo (((placed 0xD010).setIndex 0x50).setReg 15 1) (fun t => t.fb == 0 && t.reg 15 == 0) = true := by decide +kernel

/-! ### The keypad and the timers -/

/-- K1, K2, K5: the named key alone; an index above 15 is not pressed. -/
theorem test_skp : stepsTo (keyed ((placed 0xE19E).setReg 1 5) 0x0020) (fun t => t.pc == 0x204) = true ∧
    stepsTo (keyed ((placed 0xE19E).setReg 1 5) 0xFFDF) (fun t => t.pc == 0x202) = true ∧
    stepsTo (keyed ((placed 0xE19E).setReg 1 0x15) 0xFFFF) (fun t => t.pc == 0x202) = true := by decide +kernel
/-- K3, K4, K6. -/
theorem test_sknp : stepsTo ((placed 0xE1A1).setReg 1 5) (fun t => t.pc == 0x204) = true ∧
    stepsTo (keyed ((placed 0xE1A1).setReg 1 5) 0x0020) (fun t => t.pc == 0x202) = true ∧
    stepsTo (keyed ((placed 0xE1A1).setReg 1 0x15) 0xFFFF) (fun t => t.pc == 0x204) = true := by decide +kernel
/-- K8: read before the tick; K9. -/
theorem test_ldVxDT : stepsTo ((placed 0xF307).setDT 7) (fun t => t.reg 3 == 7 && t.dt == 6) = true ∧
    stepsTo ((placed 0xF307).setReg 3 9) (fun t => t.reg 3 == 0 && t.dt == 0) = true := by decide +kernel
/-- K10, K12, K13: written, then ticked. -/
theorem test_ldDTVx : stepsTo ((placed 0xF315).setReg 3 5) (fun t => t.dt == 4) = true ∧
    stepsTo ((placed 0xF315).setDT 9) (fun t => t.dt == 0) = true ∧
    stepsTo ((placed 0xF315).setReg 3 255) (fun t => t.dt == 254) = true := by decide +kernel
/-- K14; K15: two steps. -/
theorem test_ldSTVx : stepsTo ((placed 0xF318).setReg 3 2) (fun t => t.st == 1 && t.dt == 0) = true ∧
    stepsTwiceTo ((placed 0xF318).setReg 3 2) (fun t => t.st == 0 && t.pc == 0x204) = true := by decide +kernel
/-- K16, K17: the wait keeps the pc, timers run on. -/
theorem test_ldVxK_waits : stepsTo ((placed 0xF20A).setReg 2 0x77) (fun t => decide (t = (placed 0xF20A).setReg 2 0x77)) = true ∧
    stepsTo ((((placed 0xF20A).setReg 2 0x77).setDT 3).setST 1)
      (fun t => t.dt == 2 && t.st == 0 && t.pc == 0x200 && t.reg 2 == 0x77) = true := by decide +kernel
/-- K18, K19, K20: the least pressed key. -/
theorem test_ldVxK : stepsTo (keyed (placed 0xF20A) 0x0208) (fun t => t.reg 2 == 3 && t.pc == 0x202) = true ∧
    stepsTo (keyed (placed 0xF20A) 0x8000) (fun t => t.reg 2 == 15 && t.pc == 0x202) = true ∧
    stepsTo (keyed ((placed 0xF20A).setReg 2 0x77) 0x0001) (fun t => t.reg 2 == 0 && t.pc == 0x202) = true := by decide +kernel

/-! ### The host -/

/-- X5: reset leaves the halt and erases the program, not the keys. -/
theorem test_hostReset : (keyed { placed 0x2200 with fault := .stackOverflow } 5).hostReset defaultFont = keyed State.reset 5 := by
  decide +kernel
/-- A FONT_TABLE of the host's own (R6, R63): it stands at 0x050 to 0x09F and nowhere else, and glyph 0 is drawn and loaded from it. -/
def solidFont : FontTable := Vector.replicate 80 0xFF
theorem test_another_font : (State.resetWith solidFont).memRead 0x50 = 0xFF ∧ (State.resetWith solidFont).memRead 0x9F = 0xFF ∧
    (State.resetWith solidFont).memRead 0x4F = 0 ∧ (State.resetWith solidFont).memRead 0xA0 = 0 ∧
    stepsTo (((State.resetWith solidFont).withFetchWord 16 0xF065).setIndex 0x50) (fun t => t.reg 0 == 0xFF) = true ∧
    stepsTo (((State.resetWith solidFont).withFetchWord 16 0xD011).setIndex 0x50) (fun t => t.fb == 0xFF) = true := by decide +kernel
/-- A key pressed and released; the ports (R29, R35). -/
theorem test_host_keys_and_ports : ((State.reset.hostSetKey 7 true).hostSetKey 3 true |>.hostSetKey 7 false).keys = 0x0008 ∧
    (State.reset.setFb (lit [(2, 1)])).fbPort.getLsbD 66 = true ∧
    State.reset.faultPort = 0 ∧ ({ State.reset with fault := .stackUnderflow } : State).faultPort = 2 := by decide +kernel
/-- The `load` port (R35): the first and the last byte of the image's region, and the byte below it. -/
theorem test_loadPort : State.reset.loadPort 0x200 0x12 = .loaded (State.reset.memWrite 0x200 0x12) ∧
    State.reset.loadPort 0xFFF 0x34 = .loaded (State.reset.memWrite 0xFFF 0x34) ∧ State.reset.loadPort 0x1FF 0x56 = .noAccess ∧
    State.reset.loadPortRow 0x200 [0x60, 0x05] = .loaded (placed 0x6005) := by decide +kernel
/-- The source's scenario S10: the image is loaded at 0x200, and two steps give V0 = 10 with VF unchanged. -/
theorem test_host_load : ∃ t, State.reset.hostLoad [0x60, 0x05, 0x70, 0x05, 0x00, 0xE0] = .loaded t ∧
    stepsTwiceTo t (fun u => u.reg 0 == 10 && u.reg 15 == 0 && u.pc == 0x204) = true :=
  ⟨_, rfl, by decide +kernel⟩

/-! ## Witnesses: for each obligation with hypotheses, a state and operands that meet them all; for one of several clauses, each clause -/

/-- The instruction completes, and what it leaves passes the check against what it found. -/
def execsTo (i : Instr) (s : State) (check : State → State → Bool) : Bool :=
  match exec i s with
  | .next t => check s t
  | .fault _ => false
  | .refused _ => false

theorem witness_DecodeOfEncodeIsTheInstruction : Instr.wellFormed (.drw 15 15 15) = true ∧ Instr.wellFormed (.jp 0xFFF) = true ∧
    Instr.wellFormed (.ldByte 15 255) = true ∧ Instr.wellFormed .cls = true := by decide
/-- An ignored field that is not 0. -/
theorem witness_DecodedWordIsTheEncodingOffIgnoredBits : decodeWord 0x8126 = .instr (.shr 1) ∧ encode (.shr 1) = 0x8106 := by decide
theorem witness_DecoderAgreesWithTheOpcodeMap : decodeWord 0x0120 = .instr .cls ∧ decodeWord 0xE19E = .instr (.skp 1) ∧
    ⟨"SKP_Vx", 0xF0FF, 0xE09E⟩ ∈ opcodeRows ∧ rowSelects 0xE19E ⟨"SKP_Vx", 0xF0FF, 0xE09E⟩ = true := by decide
theorem witness_SameKeySelectsTheSameInstruction : dispatchKey 0x8121 = dispatchKey 0x8341 ∧
    dispatchKey 0x801F = dispatchKey 0x812F := by decide
theorem witness_UnrecognisedWordsAreExactlyTheListedOnes : decodeWord 0x0001 = .unrecognised 0x0001 ∧
    decodeWord 0x8018 = .unrecognised 0x8008 ∧ decodeWord 0xE1A0 = .unrecognised 0xE0A0 ∧ decodeWord 0xF166 = .unrecognised 0xF066 ∧
    decodeWord 0x000E = .instr .ret := by decide

theorem witness_StepRunsTheDecodedInstruction : (placed 0x6005).Running ∧ (placed 0x6005).Fetches (.ldByte 0 5) ∧
    Instr.wellFormed (.ldByte 0 5) = true ∧ (placed 0x00EE).Running ∧ (placed 0x00EE).Fetches .ret := by decide +kernel
theorem witness_UnrecognisedWordOnlyAdvancesAndTicks : (placed 0x801F).Running ∧
    decodeWord (placed 0x801F).fetchWord = .unrecognised 0x800F := by decide +kernel
theorem witness_CompletedStepTicksBothTimers :
    (∃ t, step ((placed 0x6005).setDT 3) = .next t ∧ t.Running) ∧ (placed 0x6005).fetchWord = 0x6005 ∧
    (∃ t, step (placed 0xF315) = .next t ∧ t.Running) ∧ (placed 0xF315).Fetches (.ldDTVx 3) ∧
    (∃ t, step (placed 0xF318) = .next t ∧ t.Running) ∧ (placed 0xF318).Fetches (.ldSTVx 3) :=
  ⟨⟨_, rfl, rfl⟩, by decide +kernel, ⟨_, rfl, rfl⟩, by decide +kernel, ⟨_, rfl, rfl⟩, by decide +kernel⟩
theorem witness_StackLimitFaultsArePrecise :
    (nested (placed 0x2300) 16 0).Running ∧ (nested (placed 0x2300) 16 0).Fetches (.call 0x300) ∧ (nested (placed 0x2300) 16 0).sp.val = 16 ∧
    (placed 0x00EE).Running ∧ (placed 0x00EE).Fetches .ret ∧ (placed 0x00EE).sp.val = 0 := by decide +kernel
theorem witness_HaltedCoreTakesNoStep : ({ State.reset with fault := .stackOverflow } : State).fault = .stackOverflow ∧
    ({ State.reset with fault := .stackUnderflow } : State).fault = .stackUnderflow := ⟨rfl, rfl⟩
theorem witness_OnlyTheStackLimitsRaise : (∃ t, step (placed 0x00EE) = .next t ∧ ¬ t.Running) ∧
    ∃ t, step (nested (placed 0x2300) 16 0) = .next t ∧ ¬ t.Running :=
  ⟨⟨_, rfl, by decide +kernel⟩, ⟨_, rfl, by decide +kernel⟩⟩
theorem witness_EveryRunningStepAnswersANextState : State.reset.Running := rfl
/-- A step that changes memory, from a memory with entries. -/
theorem witness_StepKeepsMemoryCanonical : (((placed 0xF055).setIndex 0x300).setReg 0 7).Inv ∧
    stepsTo (((placed 0xF055).setIndex 0x300).setReg 0 7)
      (fun t => decide (t.mem = [(0x200, 0xF0), (0x201, 0x55), (0x300, 7)])) = true := by decide +kernel
theorem witness_HostMovesKeepMemoryCanonical : (placed 0x6005).Inv ∧
    (∃ t, (placed 0x6005).hostLoad [0x00, 0xE0] = .loaded t ∧ t.mem = [(0x201, 0xE0)]) ∧
    ∃ t, (placed 0x6005).loadPort 0x201 0x00 = .loaded t ∧ t.mem = [(0x200, 0x60)] :=
  ⟨by decide +kernel, ⟨_, rfl, by decide +kernel⟩, ⟨_, rfl, by decide +kernel⟩⟩
theorem witness_CanonicalMemoriesReadingAlikeAreEqual : Memory.wf [(0x300, 1)] = true ∧ Memory.wf [(0x300, 0)] = false ∧
    Memory.wf [(0x300, 1), (0x2FF, 1)] = false ∧ Memory.wf [(4096, 1)] = false := by decide

def pcWriters : List Instr :=
  [.jp 2, .jpV0 2, .call 2, .ret, .seByte 1 0, .sneByte 1 2, .seReg 1 2, .sneReg 1 3, .sknp 1, .ldVxK 1]
def v1Writers : List Instr :=
  [.ldByte 1 2, .addByte 1 2, .ldReg 1 2, .orReg 1 2, .andReg 1 2, .xorReg 1 2, .addReg 1 2, .subReg 1 2, .subnReg 1 2, .shr 1, .shl 1] ++
  [.ldVxDT 1, .ldVxK 1, .ldVxMem 1]

/-- One change of each piece of state. -/
theorem witness_EachPieceOfStateHasItsWriters :
    execsTo .cls (State.reset.setFb (lit [(0, 0)])) (fun s t => t.fb != s.fb) = true ∧
    execsTo (.drw 0 0 1) (State.reset.setIndex 0x50) (fun s t => t.fb != s.fb) = true ∧
    execsTo (.call 0x300) State.reset (fun s t => t.sp != s.sp) = true ∧
    execsTo .ret (nested State.reset 1 0x204) (fun s t => t.sp != s.sp) = true ∧
    execsTo .ret State.reset (fun s t => t.fault != s.fault) = true ∧
    execsTo (.call 0x300) (nested State.reset 16 0) (fun s t => t.fault != s.fault) = true ∧
    execsTo (.ldDTVx 0) (State.reset.setReg 0 1) (fun s t => t.dt != s.dt) = true ∧
    execsTo (.ldSTVx 0) (State.reset.setReg 0 1) (fun s t => t.st != s.st) = true ∧
    execsTo (.ldI 1) State.reset (fun s t => t.index != s.index) = true ∧
    execsTo (.addIVx 0) (State.reset.setReg 0 1) (fun s t => t.index != s.index) = true ∧
    execsTo (.ldFVx 0) State.reset (fun s t => t.index != s.index) = true ∧
    execsTo (.ldBVx 0) (State.reset.setReg 0 1) (fun s t => t.memRead 2 != s.memRead 2) = true ∧
    execsTo (.ldMemVx 0) (State.reset.setReg 0 1) (fun s t => t.memRead 0 != s.memRead 0) = true ∧
    execsTo (.rnd 0 1) State.reset (fun s t => t.draws != s.draws) = true := by decide +kernel
/-- The pc changed by each of its writers. -/
theorem witness_EachPieceOfStateHasItsWriters_pc :
    (∀ i ∈ pcWriters, execsTo i (nested (State.reset.setReg 3 1) 1 0x300) (fun s t => t.pc != s.pc) = true) ∧
    execsTo (.skp 3) (keyed (State.reset.setReg 3 1) 2) (fun s t => t.pc != s.pc) = true := by decide +kernel
/-- A general register changed by each of its writers but RND, whose byte is free; by LD Vx,[I] one below the last too. -/
theorem witness_EachPieceOfStateHasItsWriters_v :
    (∀ i ∈ v1Writers, execsTo i (keyed ((((State.reset.setReg 1 0x90).setReg 2 0x35).setDT 7).setIndex 0x54) 4)
      (fun s t => t.reg 1 != s.reg 1) = true) ∧
    execsTo (.ldVxMem 3) (State.reset.setIndex 0x50) (fun s t => t.reg 1 != s.reg 1) = true := by decide +kernel
/-- VF changed as a flag by each of its six writers, and as a destination (by RND it may: the byte is free). -/
theorem witness_VFChangesOnlyAsFlagOrDestination :
    execsTo (.addReg 0 0) (State.reset.setReg 0 0x80) (fun s t => t.reg VF != s.reg VF) = true ∧
    execsTo (.subReg 0 1) (State.reset.setReg 0 1) (fun s t => t.reg VF != s.reg VF) = true ∧
    execsTo (.subnReg 1 0) (State.reset.setReg 0 1) (fun s t => t.reg VF != s.reg VF) = true ∧
    execsTo (.shr 0) (State.reset.setReg 0 1) (fun s t => t.reg VF != s.reg VF) = true ∧
    execsTo (.shl 0) (State.reset.setReg 0 0x80) (fun s t => t.reg VF != s.reg VF) = true ∧
    execsTo (.drw 0 0 0) (State.reset.setReg VF 1) (fun s t => t.reg VF != s.reg VF) = true ∧
    execsTo (.ldByte VF 1) State.reset (fun s t => t.reg VF != s.reg VF) = true ∧
    execsTo (.addByte VF 1) State.reset (fun s t => t.reg VF != s.reg VF) = true ∧
    execsTo (.orReg VF 0) (State.reset.setReg 0 1) (fun s t => t.reg VF != s.reg VF) = true ∧
    execsTo (.ldVxMem VF) (State.reset.setIndex 0x46) (fun s t => t.reg VF != s.reg VF) = true ∧
    execsTo (.ldVxK VF) (keyed State.reset 2) (fun s t => t.reg VF != s.reg VF) = true := by decide +kernel
/-- The longest image, and one byte more; the port's addresses at the lower edge of the image's region. -/
theorem witness_HostLoadWritesExactlyTheImage : (List.replicate 3584 (0xFF : Byte)).length ≤ 3584 ∧
    3584 < (List.replicate 3585 (0xFF : Byte)).length ∧ 0x200 ≤ (0x200#12).toNat ∧ (0x1FF#12).toNat < 0x200 := by
  rw [List.length_replicate, List.length_replicate]; decide

/-- Each value of the latch, and two keys. -/
theorem witness_HostResetKeyWriteAndPorts : State.reset.fault = .running ∧
    ({ State.reset with fault := .stackOverflow } : State).fault = .stackOverflow ∧
    ({ State.reset with fault := .stackUnderflow } : State).fault = .stackUnderflow ∧ (0 : Fin 16) ≠ 15 := by decide

theorem witness_CallPushesTheAdvancedPc : State.reset.sp.val < 16 ∧ (nested State.reset 15 0).sp.val < 16 := by decide
theorem witness_ReturnPopsTheLastSlot : 0 < (nested State.reset 1 0).sp.val ∧ 0 < (nested State.reset 16 0).sp.val := by decide
/-- F22. -/
theorem witness_CallThenReturnComesBack : ((placed 0x2204).memWrite 0x205 0xEE).Running ∧ ((placed 0x2204).memWrite 0x205 0xEE).sp.val < 16 ∧
    ((placed 0x2204).memWrite 0x205 0xEE).Fetches (.call 0x204) ∧
    stepsTo ((placed 0x2204).memWrite 0x205 0xEE) (fun t => decide (t.Fetches .ret)) = true ∧
    stepsTwiceTo ((placed 0x2204).memWrite 0x205 0xEE) (fun t => t.pc == 0x202 && t.sp == 0) = true := by decide +kernel
theorem witness_SelfJumpIsAFixedPoint : (placed 0x1200).Running ∧ (placed 0x1200).Fetches (.jp 0x200) ∧
    (placed 0x1200).pc.toNat = (0x200#12).toNat ∧ (placed 0x1200).dt = 0 ∧ (placed 0x1200).st = 0 := by decide +kernel
/-- Words the encoding lines select, ignored bits not 0. -/
theorem witness_Selects : (0x5121#16 &&& 0xF000#16 = 0x5000#16) ∧ (0x8126#16 &&& 0xF00F#16 = 0x8006#16) ∧
    (0xF333#16 &&& 0xF0FF#16 = 0xF033#16) ∧ (0x0120#16 &&& 0xF00F#16 = 0x0000#16) := by decide
/-- Distinct registers, neither VF. -/
theorem witness_flag_forms : (0 : RegIx) ≠ VF ∧ (1 : RegIx) ≠ 0 ∧ (1 : RegIx) ≠ VF := by decide
/-- X = 0 and X = 15. -/
theorem witness_RegistersAreStoredFromI : (0 : RegIx).toNat ≤ (0 : RegIx).toNat ∧ (15 : RegIx).toNat ≤ (15 : RegIx).toNat ∧
    execsTo (.ldMemVx 15) ((State.reset.setIndex 0x400).setReg 15 0x1F) (fun _ t => t.memRead 0x40F == 0x1F) = true := by decide +kernel
theorem witness_StoreAndLoadAreInverse :
    (∃ t u, exec (.ldMemVx 1) ((State.reset.setIndex 0x300).setReg 1 9) = .next t ∧ exec (.ldVxMem 1) t = .next u) ∧
    ∃ t u, exec (.ldVxMem 1) (State.reset.setIndex 0x50) = .next t ∧ exec (.ldMemVx 1) t = .next u :=
  ⟨⟨_, _, rfl, rfl⟩, ⟨_, _, rfl, rfl⟩⟩
/-- I21, both bytes of the next word; then its high byte alone, its low byte alone, and the tens digit of LD B as its high byte. -/
theorem witness_StoreIsSeenByTheNextFetch :
    (((placed 0xF155).setIndex 0x202).setReg 0 0x60).Running ∧ (((placed 0xF155).setIndex 0x202).setReg 0 0x60).Fetches (.ldMemVx 1) ∧
    (0x200 + 2) % 4096 = (0x202 + (0 : RegIx).toNat) % 4096 ∧ (0x200 + 3) % 4096 = (0x202 + (1 : RegIx).toNat) % 4096 ∧
    stepsTo ((((placed 0xF155).setIndex 0x202).setReg 0 0x60).setReg 1 0x2A) (fun t => t.fetchWord == 0x602A) = true ∧
    stepsTo (((placed 0xF055).setIndex 0x202).setReg 0 0x60) (fun t => t.fetchWord == 0x6000) = true ∧
    stepsTo (((placed 0xF055).setIndex 0x203).setReg 0 0x60) (fun t => t.fetchWord == 0x0060) = true ∧
    (((placed 0xF333).setIndex 0x201).setReg 3 234).Fetches (.ldBVx 3) ∧
    stepsTo (((placed 0xF333).setIndex 0x201).setReg 3 234) (fun t => t.fetchWord == 0x0304) = true := by decide +kernel
/-- G2, G3. -/
theorem witness_DrawingTwiceRestoresTheDisplay : (0 : RegIx) ≠ VF ∧ (1 : RegIx) ≠ VF ∧
    ∃ t u, exec (.drw 0 1 1) (State.reset.setIndex 0x50) = .next t ∧ exec (.drw 0 1 1) t = .next u :=
  ⟨by decide, by decide, _, _, rfl, rfl⟩
/-- The key of number 15 is the last; 16 names none. -/
theorem witness_KeySkipsTestTheNamedKey :
    execsTo (.skp 1) (keyed (State.reset.setReg 1 15) 0x8000) (fun _ t => t.pc == 0x202) = true ∧
    execsTo (.skp 1) (keyed (State.reset.setReg 1 16) 0xFFFF) (fun _ t => t.pc == 0x200) = true ∧
    execsTo (.sknp 1) (keyed (State.reset.setReg 1 16) 0xFFFF) (fun _ t => t.pc == 0x202) = true := by decide +kernel
/-- The least key 0 and 15, and no key at pc 0. -/
theorem witness_WaitForKeyTakesTheLeastKeyOrRewinds :
    (keyed State.reset 0x0001).keys.getLsbD 0 = true ∧
    ((keyed State.reset 0x8000).keys.getLsbD 15 = true ∧ ∀ j < 15, (keyed State.reset 0x8000).keys.getLsbD j = false) ∧
    (∀ k < 16, State.reset.keys.getLsbD k = false) ∧
    execsTo (.ldVxK 2) (State.reset.setPc 0) (fun _ t => t.pc == 0xFFFE) = true := by decide +kernel
theorem witness_WaitingStepKeepsThePc : (placed 0xF20A).Running ∧ (placed 0xF20A).Fetches (.ldVxK 2) ∧
    ∀ k < 16, (placed 0xF20A).keys.getLsbD k = false := by decide +kernel
/-- Three steps of a JP to itself, from DT = 2: the timer reaches 0 and stays there. -/
theorem witness_DelayTimerRunsDownOverSteps :
    (∃ t : State, core.run 3 ((placed 0x1200).setDT 2) = .next t ∧ t.Running ∧ t.dt = 0) ∧
    ∀ m < 3, ∀ u : State, core.run m ((placed 0x1200).setDT 2) = .next u → ∀ x, ¬ u.Fetches (.ldDTVx x) := by
  refine ⟨⟨_, rfl, rfl, rfl⟩, fun m hm u hu x hx => ?_⟩
  have hd : decodeWord u.fetchWord = .instr (.jp 0x200) := by
    obtain rfl | rfl | rfl : m = 0 ∨ m = 1 ∨ m = 2 := by omega
    all_goals (cases hu; decide +kernel)
  rw [State.Fetches, hd] at hx
  cases hx
theorem witness_SoundTimerAffectsNothingElse : ∃ t, step ((placed 0xF307).setDT 7) = .next t := ⟨_, rfl⟩
theorem witness_InputsReachOnlyTheirReaders : (∃ t, exec (.ldByte 1 2) State.reset = .next t) ∧
    (∀ x, Instr.ldByte 1 2 ≠ .skp x ∧ Instr.ldByte 1 2 ≠ .sknp x ∧ Instr.ldByte 1 2 ≠ .ldVxK x) ∧
    ∀ x kk, Instr.ldByte 1 2 ≠ .rnd x kk :=
  ⟨⟨_, rfl⟩, fun _ => ⟨nofun, nofun, nofun⟩, fun _ _ => nofun⟩

/-- The instructions the frames name. -/
def framedA : List Instr :=
  [.ldByte 1 2, .addByte 1 2, .ldReg 1 2, .orReg 1 2, .andReg 1 2, .xorReg 1 2, .ldVxDT 1, .rnd 1 2, .ldVxK 1]
def framedB : List Instr :=
  [.addReg 1 2, .subReg 1 2, .subnReg 1 2, .shr 1, .shl 1, .jp 2, .jpV0 2, .seByte 1 2, .sneByte 1 2, .seReg 1 2, .sneReg 1 2]
def framedC : List Instr :=
  [.skp 1, .sknp 1, .call 2, .ret, .ldI 2, .addIVx 1, .ldFVx 1, .ldDTVx 1, .ldSTVx 1, .ldBVx 1, .ldMemVx 1, .ldVxMem 1, .cls, .drw 1 2 3]

/-- Every instruction a frame names completes from a state with something in it, so no frame's premise is empty. -/
theorem witness_frames :
    (∀ i ∈ framedA, execsTo i (nested (keyed (placed 0x6005) 4) 2 0x204) (fun _ _ => true) = true) ∧
    (∀ i ∈ framedB, execsTo i (nested (keyed (placed 0x6005) 4) 2 0x204) (fun _ _ => true) = true) ∧
    ∀ i ∈ framedC, execsTo i (nested (keyed (placed 0x6005) 4) 2 0x204) (fun _ _ => true) = true := by decide +kernel

end Sys2Proof.Tests
end

namespace Sys2Proof.Machine

/-- The step equation of an unrecognised word (40_step_cycle.md R115): fetch, advance and tick, with no execute phase between. -/
theorem step_of_unrecognised {s : State} {k : Word} (hr : s.Running) (hd : decodeWord s.fetchWord = .unrecognised k) :
    step s = .next s.advance.tick := by
  have hf : s.fault = .running := hr
  have hc : s.commit s.advance = s.advance.tick := State.commit_running (by rw [State.advance_fault, hf])
  simp only [step, hf, hd, hc]

theorem State.advance_pc_toNat (s : State) : s.advance.pc.toNat = (s.pc.toNat + 2) % 65536 := BitVec.toNat_add s.pc 2

/-- Settles O8: the step is `advance` and then `tick`, and these write the pc and the two timers alone. -/
theorem unrecognisedWordOnlyAdvancesAndTicks : Obligations.UnrecognisedWordOnlyAdvancesAndTicks := by
  intro s k hr hd
  refine ⟨s.advance.tick, step_of_unrecognised hr hd, ?pc, ?dt, ?st, ?frame⟩
  case pc => exact s.advance_pc_toNat
  case dt => exact tickDown_toNat s.dt
  case st => exact tickDown_toNat s.st
  case frame => rfl

end Sys2Proof.Machine

namespace Sys2Proof.Machine

/-! ## Words a high nibble selects (30_encoding.md R83, R84) -/

theorem decodeWord_of_decodeFields {w : Word} {i : Instr}
    (h : decodeFields (opField w) (xField w) (yField w) (nField w) (kkField w) (nnnField w) = some i) :
    decodeWord w = .instr i := by
  simp only [decodeWord, h]

/-- A row of mask F000: the dispatch sees of `value` its high nibble alone, so the arm of that nibble answers for every selected word. -/
theorem selects_of_opField {value : Word} {f : Word → Instr}
    (h : ∀ w, decodeFields (opField value) (xField w) (yField w) (nField w) (kkField w) (nnnField w) = some (f w)) :
    Selects 0xF000#16 value f := by
  intro w hw
  have hop : opField w = opField value := opField_of_selected hw (by decide)
  exact decodeWord_of_decodeFields (hop ▸ h w)

/-! ## Register moves and the ALU (42_alu.md) -/

theorem exec_ldByte (x : RegIx) (kk : Byte) (s : State) : exec (.ldByte x kk) s = .next (s.setReg x kk) := rfl

theorem exec_addByte (x : RegIx) (kk : Byte) (s : State) : exec (.addByte x kk) s = .next (s.setReg x (s.reg x + kk)) := rfl

theorem State.setReg_reg_ne (s : State) {x r : RegIx} (b : Byte) (h : r ≠ x) : (s.setReg x b).reg r = s.reg r := by
  rw [State.setReg_reg, if_neg h]

theorem State.setReg_eq (s : State) (x : RegIx) (b : Byte) : s.setReg x b = { s with v := (s.setReg x b).v } := rfl

/-- Settles O30: the opcodes 6 and 7 name the two forms, and each form is one register write, of `kk` or of the 8-bit sum. -/
theorem loadAndAddOfAByteWriteVx : Obligations.LoadAndAddOfAByteWriteVx := by
  refine ⟨selects_of_opField fun _ => rfl, selects_of_opField fun _ => rfl, fun s x kk => ⟨?ldByte, ?addByte⟩⟩
  case ldByte =>
    exact ⟨s.setReg x kk, exec_ldByte x kk s, s.setReg_reg_same x kk, fun _ h => s.setReg_reg_ne kk h, s.setReg_eq x kk⟩
  case addByte =>
    refine ⟨s.setReg x (s.reg x + kk), exec_addByte x kk s, ?sum, fun _ h => s.setReg_reg_ne _ h, s.setReg_eq x _⟩
    case sum => rw [State.setReg_reg_same, BitVec.toNat_add]

end Sys2Proof.Machine

namespace Sys2Proof.Machine

/-- A row of mask F00F: the dispatch sees of `value` its high and its low nibble, so the arm of these two answers for every selected word. -/
theorem selects_of_opField_nField {value : Word} {f : Word → Instr}
    (h : ∀ w, decodeFields (opField value) (xField w) (yField w) (nField value) (kkField w) (nnnField w) = some (f w)) :
    Selects 0xF00F#16 value f := by
  intro w hw
  have hop : opField w = opField value := opField_of_selected hw (by decide)
  have hn : nField w = nField value := nField_of_selected hw (by decide)
  exact decodeWord_of_decodeFields (hop ▸ hn ▸ h w)

/-! ## The display (44_display.md) -/

theorem exec_cls (s : State) : exec .cls s = .next (s.setFb 0) := rfl

@[simp] theorem Framebuffer.pixel_zero (x y : Nat) : Framebuffer.pixel 0 x y = false := BitVec.getLsbD_zero

theorem State.setFb_eq (s : State) (f : Framebuffer) : s.setFb f = { s with fb := (s.setFb f).fb } := rfl

/-- Settles O43: the high nibble 0 and the low nibble 0 name CLS, and CLS is one display write, of the display with no pixel set. -/
theorem clearScreenClearsEveryPixel : Obligations.ClearScreenClearsEveryPixel := by
  refine ⟨selects_of_opField_nField fun _ => rfl, fun s => ⟨s.setFb 0, exec_cls s, ?pixels, s.setFb_eq 0⟩⟩
  case pixels =>
    intro x _ y _
    rw [State.setFb_fb, Framebuffer.pixel_zero]

end Sys2Proof.Machine

namespace Sys2Proof

/-! ## The sixteen values of a nibble, as named cases -/

theorem nibble_cases {P : Nibble → Prop}
    (n0 : P 0x0#4) (n1 : P 0x1#4) (n2 : P 0x2#4) (n3 : P 0x3#4) (n4 : P 0x4#4) (n5 : P 0x5#4) (n6 : P 0x6#4) (n7 : P 0x7#4)
    (n8 : P 0x8#4) (n9 : P 0x9#4) (n10 : P 0xA#4) (n11 : P 0xB#4) (n12 : P 0xC#4) (n13 : P 0xD#4) (n14 : P 0xE#4) (n15 : P 0xF#4)
    (a : Nibble) : P a := by
  obtain ⟨⟨k, hk⟩⟩ := a
  interval_cases k
  exacts [n0, n1, n2, n3, n4, n5, n6, n7, n8, n9, n10, n11, n12, n13, n14, n15]

/-! ## Words in the formats of 30_encoding.md R82, by their nibbles -/

theorem formatXK_append (op : Nibble) (x y : RegIx) (n : Nibble) : formatXK op x (y ++ n) = formatXYN op x y n :=
  (BitVec.append_assoc (x₁ := op ++ x) (x₂ := y) (x₃ := n)).symm

theorem formatA_append (op : Nibble) (x y : RegIx) (n : Nibble) : formatA op (x ++ y ++ n) = formatXYN op x y n := by
  have h : (op ++ (x ++ y) : BitVec (4 + (4 + 4))) = (op ++ x ++ y : BitVec (4 + 4 + 4)) :=
    (BitVec.append_assoc (x₁ := op) (x₂ := x) (x₃ := y)).symm
  calc formatA op (x ++ y ++ n) = ((op ++ (x ++ y)) ++ n : BitVec (4 + (4 + 4) + 4)) :=
        (BitVec.append_assoc (x₁ := op) (x₂ := x ++ y) (x₃ := n)).symm
    _ = formatXYN op x y n := by rw [h]; rfl

theorem kkField_eq_append (w : Word) : kkField w = yField w ++ nField w := by
  conv_lhs => rw [word_eq_formatXYN w, kkField_formatXYN]

theorem nnnField_eq_append (w : Word) : nnnField w = xField w ++ yField w ++ nField w := by
  conv_lhs => rw [word_eq_formatXYN w, nnnField_formatXYN]

theorem formatXYN_maskFF0F (op : Nibble) (x y : RegIx) (n : Nibble) :
    formatXYN op x y n &&& 0xFF0F#16 = formatXYN op x 0 n := by
  rw [show (0xFF0F#16) = formatXYN 0xF#4 0xF#4 0 0xF#4 from rfl, formatXYN_and]
  simp [nibble_and_ones]

theorem formatXYN_maskFFF0 (op : Nibble) (x y : RegIx) (n : Nibble) :
    formatXYN op x y n &&& 0xFFF0#16 = formatXYN op x y 0 := by
  rw [show (0xFFF0#16) = formatXYN 0xF#4 0xF#4 0xF#4 0 from rfl, formatXYN_and]
  simp [nibble_and_ones]

/-! ## Decoding an encoded instruction (R91) -/

theorem wordOfBytes_extractLsb' (w : Word) : wordOfBytes (w.extractLsb' 8 8) (w.extractLsb' 0 8) = w := by
  refine BitVec.eq_of_getLsbD_eq (w := 8 + 8) fun i hi => ?_
  show BitVec.getLsbD (w := 8 + 8) (w.extractLsb' 8 8 ++ w.extractLsb' 0 8) i = w.getLsbD i
  simp only [BitVec.getLsbD_append, BitVec.getLsbD_extractLsb']
  by_cases h : i < 8
  · simp [h]
  · simp [h, show 8 + (i - 8) = i by omega, show i - 8 < 8 by omega]

/-- With the fields read off the format, each instruction's arm of the dispatch computes. -/
theorem decodeWord_encode (i : Instr) : decodeWord (encode i) = .instr i := by
  cases i <;>
    simp only [encode, decodeWord, opField_formatA, nnnField_formatA, opField_formatXK, xField_formatXK, kkField_formatXK,
      opField_formatXYN, xField_formatXYN, yField_formatXYN, nField_formatXYN] <;> rfl

/-- Settles O2: the two bytes make up the encoded word again, and that word decodes to the instruction. -/
theorem decodeOfEncodeIsTheInstruction : Obligations.DecodeOfEncodeIsTheInstruction := by
  intro i _
  rw [decodeBytes, encodeBytes, wordOfBytes_extractLsb', decodeWord_encode]

/-- Settles O1. -/
theorem specWordsDecodeToTheirInstructions : Obligations.SpecWordsDecodeToTheirInstructions := by
  unfold Obligations.SpecWordsDecodeToTheirInstructions
  decide

/-! ## The decoder's two answers -/

/-- The instruction of a word, if it has one: what `decodeWord` looks at. -/
def instrOfWord (w : Word) : Option Instr :=
  decodeFields (opField w) (xField w) (yField w) (nField w) (kkField w) (nnnField w)

theorem decodeWord_eq_instr_iff {w : Word} {i : Instr} : decodeWord w = .instr i ↔ instrOfWord w = some i := by
  unfold decodeWord instrOfWord
  split <;> simp_all

theorem decodeWord_eq_unrecognised_iff {w : Word} : decodeWord w = .unrecognised (dispatchKey w) ↔ instrOfWord w = none := by
  unfold decodeWord instrOfWord
  split <;> simp_all

/-! ## Encoding a decoded word (R85): family by family, the used bits come back -/

theorem encode_of_decodeFamily0 {x y : RegIx} {n : Nibble} {i : Instr} (h : decodeFamily0 n = some i) :
    encode i &&& usedBits i = formatXYN 0x0#4 x y n &&& usedBits i := by
  cases n using nibble_cases <;> cases h
  case n0 | n14 => exact (formatXYN_maskF00F ..).trans (formatXYN_maskF00F ..).symm

theorem encode_of_decodeFamily8 {x y : RegIx} {n : Nibble} {i : Instr} (h : decodeFamily8 x y n = some i) :
    encode i &&& usedBits i = formatXYN 0x8#4 x y n &&& usedBits i := by
  cases n using nibble_cases <;> cases h
  case n6 | n14 => exact (formatXYN_maskFF0F ..).trans (formatXYN_maskFF0F ..).symm
  all_goals rfl

theorem encode_of_decodeFamilyE {x : RegIx} {kk : Byte} {i : Instr} (h : decodeFamilyE x kk = some i) :
    encode i = formatXK 0xE#4 x kk := by
  unfold decodeFamilyE at h
  split at h <;> cases h
  all_goals exact congrArg (formatXK 0xE#4 x) (BitVec.eq_of_toNat_eq (Eq.symm ‹_›))

theorem encode_of_decodeFamilyF {x : RegIx} {kk : Byte} {i : Instr} (h : decodeFamilyF x kk = some i) :
    encode i = formatXK 0xF#4 x kk := by
  unfold decodeFamilyF at h
  split at h <;> cases h
  all_goals exact congrArg (formatXK 0xF#4 x) (BitVec.eq_of_toNat_eq (Eq.symm ‹_›))

theorem encode_of_decodeFields {op : Nibble} {x y : RegIx} {n : Nibble} {i : Instr}
    (h : decodeFields op x y n (y ++ n) (x ++ y ++ n) = some i) :
    encode i &&& usedBits i = formatXYN op x y n &&& usedBits i := by
  cases op using nibble_cases
  case n0 => exact encode_of_decodeFamily0 h
  case n8 => exact encode_of_decodeFamily8 h
  case n14 => rw [encode_of_decodeFamilyE h, formatXK_append]
  case n15 => rw [encode_of_decodeFamilyF h, formatXK_append]
  case n5 | n9 => cases h; exact (formatXYN_maskFFF0 ..).trans (formatXYN_maskFFF0 ..).symm
  case n1 | n2 | n10 | n11 => cases h; exact congrArg (· &&& _) (formatA_append ..)
  case n3 | n4 | n6 | n7 | n12 => cases h; exact congrArg (· &&& _) (formatXK_append ..)
  case n13 => cases h; rfl

/-- Settles O3: a word is its four nibbles, and these come back from the dispatch but for the bits it ignores. -/
theorem decodedWordIsTheEncodingOffIgnoredBits : Obligations.DecodedWordIsTheEncodingOffIgnoredBits := by
  intro w i h
  rw [decodeWord_eq_instr_iff, instrOfWord, kkField_eq_append, nnnField_eq_append] at h
  rw [encode_of_decodeFields h, ← word_eq_formatXYN]

/-! ## The dispatch key (R83) -/

theorem opField_dispatchMask (op : Nibble) : opField (dispatchMask op) = 0xF#4 := by
  revert op; decide

theorem opField_dispatchKey (w : Word) : opField (dispatchKey w) = opField w := by
  rw [dispatchKey, opField_and, opField_dispatchMask, nibble_and_ones]

theorem opField_eq_of_key {w w' : Word} (h : dispatchKey w = dispatchKey w') : opField w = opField w' := by
  rw [← opField_dispatchKey w, h, opField_dispatchKey]

theorem nField_eq_of_key {w w' : Word} (h : dispatchKey w = dispatchKey w') (hop : opField w = 0x0#4 ∨ opField w = 0x8#4) :
    nField w = nField w' := by
  have hm : dispatchMask (opField w) = 0xF00F#16 := if_pos hop
  rw [dispatchKey, dispatchKey, ← opField_eq_of_key h, hm] at h
  exact (nField_of_selected h (by decide)).trans (nField_of_selected rfl (by decide)).symm

theorem kkField_eq_of_key {w w' : Word} (h : dispatchKey w = dispatchKey w') (hop : opField w = 0xE#4 ∨ opField w = 0xF#4) :
    kkField w = kkField w' := by
  have hm : dispatchMask (opField w) = 0xF0FF#16 := by obtain e | e := hop <;> rw [e] <;> decide
  rw [dispatchKey, dispatchKey, ← opField_eq_of_key h, hm] at h
  exact (kkField_of_selected h (by decide)).trans (kkField_of_selected rfl (by decide)).symm

theorem decodeFamily8_mnemonic (x y x' y' : RegIx) (n : Nibble) :
    (decodeFamily8 x y n).map mnemonicOf = (decodeFamily8 x' y' n).map mnemonicOf := by
  unfold decodeFamily8; split <;> rfl

theorem decodeFamilyE_mnemonic (x x' : RegIx) (kk : Byte) :
    (decodeFamilyE x kk).map mnemonicOf = (decodeFamilyE x' kk).map mnemonicOf := by
  unfold decodeFamilyE; split <;> rfl

theorem decodeFamilyF_mnemonic (x x' : RegIx) (kk : Byte) :
    (decodeFamilyF x kk).map mnemonicOf = (decodeFamilyF x' kk).map mnemonicOf := by
  unfold decodeFamilyF; split <;> rfl

/-- The mnemonic takes of a word its high nibble, in the families 0 and 8 the low nibble, and in E and F the low byte. -/
theorem decodeFields_mnemonic {op n n' : Nibble} {kk kk' : Byte} (x y x' y' : RegIx) (nnn nnn' : Addr)
    (hn : op = 0x0#4 ∨ op = 0x8#4 → n = n') (hkk : op = 0xE#4 ∨ op = 0xF#4 → kk = kk') :
    (decodeFields op x y n kk nnn).map mnemonicOf = (decodeFields op x' y' n' kk' nnn').map mnemonicOf := by
  cases op using nibble_cases
  case n0 => obtain rfl := hn (.inl rfl); rfl
  case n8 => obtain rfl := hn (.inr rfl); exact decodeFamily8_mnemonic ..
  case n14 => obtain rfl := hkk (.inl rfl); exact decodeFamilyE_mnemonic ..
  case n15 => obtain rfl := hkk (.inr rfl); exact decodeFamilyF_mnemonic ..
  all_goals rfl

theorem instrOfWord_mnemonic_of_key {w w' : Word} (h : dispatchKey w = dispatchKey w') :
    (instrOfWord w).map mnemonicOf = (instrOfWord w').map mnemonicOf := by
  rw [instrOfWord, instrOfWord, ← opField_eq_of_key h]
  exact decodeFields_mnemonic _ _ _ _ _ _ (nField_eq_of_key h) (kkField_eq_of_key h)

/-- Settles O5: the mnemonic, or its absence, depends on the key alone. -/
theorem sameKeySelectsTheSameInstruction : Obligations.SameKeySelectsTheSameInstruction := by
  intro w w' h
  have hm := instrOfWord_mnemonic_of_key h
  cases hi : instrOfWord w with
  | none =>
    rw [hi, Option.map_none, eq_comm, Option.map_eq_none_iff] at hm
    exact .inr ⟨decodeWord_eq_unrecognised_iff.2 hi, decodeWord_eq_unrecognised_iff.2 hm⟩
  | some i =>
    rw [hi, Option.map_some, eq_comm, Option.map_eq_some_iff] at hm
    obtain ⟨i', hi', hmn⟩ := hm
    exact .inl ⟨i, i', decodeWord_eq_instr_iff.2 hi, decodeWord_eq_instr_iff.2 hi', hmn.symm⟩

/-! ## The opcode map (R84): a row is the key that its value is -/

theorem opcodeRows_mask : ∀ r ∈ opcodeRows, r.mask = dispatchMask (opField r.value) := by decide

theorem opcodeRows_key : ∀ r ∈ opcodeRows, dispatchKey r.value = r.value := by decide

theorem opcodeRows_mnemonic : ∀ r ∈ opcodeRows, (instrOfWord r.value).map mnemonicOf = some r.mnemonic := by decide

theorem opcodeRows_value_injective : ∀ r ∈ opcodeRows, ∀ r' ∈ opcodeRows, r.value = r'.value → r = r' := by decide

theorem rowSelects_iff {w : Word} {r : OpcodeRow} (hr : r ∈ opcodeRows) : rowSelects w r = true ↔ dispatchKey w = r.value := by
  have hmask := opcodeRows_mask r hr
  rw [rowSelects, beq_iff_eq]
  constructor
  · intro h
    have hop : opField w = opField r.value := opField_of_selected h (hmask ▸ opField_dispatchMask _)
    rw [dispatchKey, hop, ← hmask, h]
  · intro h
    have hop : opField w = opField r.value := opField_eq_of_key (h.trans (opcodeRows_key r hr).symm)
    rw [hmask, ← hop]; exact h

/-- No bit that takes part in the dispatch is an ignored one. -/
theorem dispatchMask_and_usedBits (i : Instr) :
    dispatchMask (opField (encode i)) &&& usedBits i = dispatchMask (opField (encode i)) := by
  cases i <;> simp only [encode, usedBits, opField_formatA, opField_formatXK, opField_formatXYN] <;> decide

theorem opField_usedBits (i : Instr) : opField (usedBits i) = 0xF#4 := by
  cases i <;> simp only [usedBits] <;> decide

theorem dispatchKey_of_decodeWord {w : Word} {i : Instr} (h : decodeWord w = .instr i) : dispatchKey w = dispatchKey (encode i) := by
  have hused : encode i &&& usedBits i = w &&& usedBits i := decodedWordIsTheEncodingOffIgnoredBits w i h
  have hop : opField (encode i) = opField w :=
    (opField_of_selected hused (opField_usedBits i)).trans (opField_of_selected rfl (opField_usedBits i)).symm
  have hmask : usedBits i &&& dispatchMask (opField (encode i)) = dispatchMask (opField (encode i)) := by
    rw [BitVec.and_comm, dispatchMask_and_usedBits]
  calc dispatchKey w = w &&& dispatchMask (opField (encode i)) := by rw [dispatchKey, hop]
    _ = w &&& usedBits i &&& dispatchMask (opField (encode i)) := by rw [BitVec.and_assoc, hmask]
    _ = encode i &&& usedBits i &&& dispatchMask (opField (encode i)) := by rw [hused]
    _ = dispatchKey (encode i) := by rw [BitVec.and_assoc, hmask, dispatchKey]

/-- Settles O4: decoder and map both go by the dispatch key, and the rows' values are distinct keys. -/
theorem decoderAgreesWithTheOpcodeMap : Obligations.DecoderAgreesWithTheOpcodeMap := by
  intro w
  refine ⟨fun i hi => ?ofInstr, fun r hr hs => ?ofRow, fun r hr r' hr' hs hs' => ?disjoint⟩
  case ofInstr =>
    obtain ⟨r, hr, hmn, hs⟩ := Laws.tableRow_all i
    rw [rowSelects_iff hr, ← dispatchKey_of_decodeWord hi, ← rowSelects_iff hr] at hs
    exact ⟨r, hr, hs, hmn⟩
  case ofRow =>
    have hkey : dispatchKey w = dispatchKey r.value := ((rowSelects_iff hr).1 hs).trans (opcodeRows_key r hr).symm
    have hsome := (instrOfWord_mnemonic_of_key hkey).trans (opcodeRows_mnemonic r hr)
    obtain ⟨i, hi, hmn⟩ := Option.map_eq_some_iff.1 hsome
    exact ⟨i, decodeWord_eq_instr_iff.2 hi, hmn⟩
  case disjoint =>
    exact opcodeRows_value_injective r hr r' hr' (((rowSelects_iff hr).1 hs).symm.trans ((rowSelects_iff hr').1 hs'))

/-! ## Unrecognised words (R86): the dispatch has no answer in four families alone -/

theorem decodeFamily0_eq_none_iff (n : Nibble) : decodeFamily0 n = none ↔ n ≠ 0x0#4 ∧ n ≠ 0xE#4 := by
  revert n; decide

theorem decodeFamily8_eq_none_iff (x y : RegIx) (n : Nibble) : decodeFamily8 x y n = none ↔
    n ∈ [0x8#4, 0x9#4, 0xA#4, 0xB#4, 0xC#4, 0xD#4, 0xF#4] := by
  cases n using nibble_cases <;> simp [decodeFamily8]

theorem decodeFamilyE_eq_none_iff (x : RegIx) (kk : Byte) : decodeFamilyE x kk = none ↔ kk ≠ 0x9E#8 ∧ kk ≠ 0xA1#8 := by
  unfold decodeFamilyE
  split <;> simp_all [BitVec.toNat_eq]

theorem decodeFamilyF_eq_none_iff (x : RegIx) (kk : Byte) : decodeFamilyF x kk = none ↔
    kk ∉ [0x07#8, 0x0A#8, 0x15#8, 0x18#8, 0x1E#8, 0x29#8, 0x33#8, 0x55#8, 0x65#8] := by
  unfold decodeFamilyF
  split <;> simp_all [BitVec.toNat_eq]

theorem decodeFields_eq_none_iff (op : Nibble) (x y : RegIx) (n : Nibble) (kk : Byte) (nnn : Addr) :
    decodeFields op x y n kk nnn = none ↔
      (op = 0x0#4 ∧ decodeFamily0 n = none) ∨ (op = 0x8#4 ∧ decodeFamily8 x y n = none) ∨
      (op = 0xE#4 ∧ decodeFamilyE x kk = none) ∨ (op = 0xF#4 ∧ decodeFamilyF x kk = none) := by
  cases op using nibble_cases <;> simp [decodeFields, BitVec.toNat_eq]

/-- Settles O6: R86's conditions are those of the four families. -/
theorem unrecognisedWordsAreExactlyTheListedOnes : Obligations.UnrecognisedWordsAreExactlyTheListedOnes := by
  intro w
  rw [decodeWord_eq_unrecognised_iff, instrOfWord, decodeFields_eq_none_iff, decodeFamily0_eq_none_iff,
    decodeFamily8_eq_none_iff, decodeFamilyE_eq_none_iff, decodeFamilyF_eq_none_iff]
  exact Iff.rfl

end Sys2Proof

namespace Sys2Proof.Machine

/-! ## The meaning of each instruction, as an equation (40_step_cycle.md R113) -/

theorem exec_ret (s : State) : exec .ret s = .next s.returnToCaller := rfl
theorem exec_jp (nnn : Addr) (s : State) : exec (.jp nnn) s = .next (s.setPc (zextAddr nnn)) := rfl
theorem exec_call (nnn : Addr) (s : State) : exec (.call nnn) s = .next (s.callTo (zextAddr nnn)) := rfl
theorem exec_seByte (x : RegIx) (kk : Byte) (s : State) : exec (.seByte x kk) s = .next (s.skipIf (s.reg x == kk)) := rfl
theorem exec_sneByte (x : RegIx) (kk : Byte) (s : State) : exec (.sneByte x kk) s = .next (s.skipIf (s.reg x != kk)) := rfl
theorem exec_seReg (x y : RegIx) (s : State) : exec (.seReg x y) s = .next (s.skipIf (s.reg x == s.reg y)) := rfl
theorem exec_sneReg (x y : RegIx) (s : State) : exec (.sneReg x y) s = .next (s.skipIf (s.reg x != s.reg y)) := rfl
theorem exec_ldReg (x y : RegIx) (s : State) : exec (.ldReg x y) s = .next (s.setReg x (s.reg y)) := rfl
theorem exec_orReg (x y : RegIx) (s : State) : exec (.orReg x y) s = .next (s.setReg x (s.reg x ||| s.reg y)) := rfl
theorem exec_andReg (x y : RegIx) (s : State) : exec (.andReg x y) s = .next (s.setReg x (s.reg x &&& s.reg y)) := rfl
theorem exec_xorReg (x y : RegIx) (s : State) : exec (.xorReg x y) s = .next (s.setReg x (s.reg x ^^^ s.reg y)) := rfl
theorem exec_addReg (x y : RegIx) (s : State) : exec (.addReg x y) s =
    .next (s.setFlagThenReg (carryFlag (s.reg x) (s.reg y)) x ((sum9 (s.reg x) (s.reg y)).setWidth 8)) := rfl
theorem exec_subReg (x y : RegIx) (s : State) : exec (.subReg x y) s =
    .next (s.setFlagThenReg (greaterFlag (s.reg x) (s.reg y)) x (s.reg x - s.reg y)) := rfl
theorem exec_shr (x : RegIx) (s : State) : exec (.shr x) s =
    .next (s.setFlagThenReg (lowBitFlag (s.reg x)) x (s.reg x >>> 1)) := rfl
theorem exec_subnReg (x y : RegIx) (s : State) : exec (.subnReg x y) s =
    .next (s.setFlagThenReg (greaterFlag (s.reg y) (s.reg x)) x (s.reg y - s.reg x)) := rfl
theorem exec_shl (x : RegIx) (s : State) : exec (.shl x) s =
    .next (s.setFlagThenReg (highBitFlag (s.reg x)) x (s.reg x <<< 1)) := rfl
theorem exec_ldI (nnn : Addr) (s : State) : exec (.ldI nnn) s = .next (s.setIndex (zextAddr nnn)) := rfl
theorem exec_jpV0 (nnn : Addr) (s : State) : exec (.jpV0 nnn) s = .next (s.setPc (zextByte (s.reg 0) + zextAddr nnn)) := rfl
theorem exec_rnd (x : RegIx) (kk : Byte) (s : State) : exec (.rnd x kk) s = .next ((s.setReg x (s.rnd &&& kk)).consumeDraw) := rfl
theorem exec_skp (x : RegIx) (s : State) : exec (.skp x) s = .next (s.skipIf (s.pressed (s.reg x))) := rfl
theorem exec_sknp (x : RegIx) (s : State) : exec (.sknp x) s = .next (s.skipIf (!s.pressed (s.reg x))) := rfl
theorem exec_ldVxDT (x : RegIx) (s : State) : exec (.ldVxDT x) s = .next (s.setReg x s.dt) := rfl
theorem exec_ldDTVx (x : RegIx) (s : State) : exec (.ldDTVx x) s = .next (s.setDT (s.reg x)) := rfl
theorem exec_ldSTVx (x : RegIx) (s : State) : exec (.ldSTVx x) s = .next (s.setST (s.reg x)) := rfl
theorem exec_addIVx (x : RegIx) (s : State) : exec (.addIVx x) s = .next (s.setIndex (s.index + zextByte (s.reg x))) := rfl
theorem exec_ldFVx (x : RegIx) (s : State) : exec (.ldFVx x) s = .next (s.setIndex (0x50#16 + 5 * zextByte (s.reg x))) := rfl
theorem exec_ldBVx (x : RegIx) (s : State) : exec (.ldBVx x) s = .next (s.storeDigits (bcdDigits (s.reg x))) := rfl
theorem exec_ldMemVx (x : RegIx) (s : State) : exec (.ldMemVx x) s = .next (s.storeRegs (x.toNat + 1)) := rfl
theorem exec_ldVxMem (x : RegIx) (s : State) : exec (.ldVxMem x) s = .next (s.loadRegs (x.toNat + 1)) := rfl
theorem exec_drw (x y : RegIx) (n : Nibble) (s : State) : exec (.drw x y n) s =
    .next ((s.setFb (s.blitRows ((s.reg x).toNat % 64) ((s.reg y).toNat % 32) n.toNat).1).setReg VF
      (flagByte (s.blitRows ((s.reg x).toNat % 64) ((s.reg y).toNat % 32) n.toNat).2)) := rfl

theorem exec_ldVxK_of_some {s : State} {k : Nat} (x : RegIx) (h : s.lowestKey = some k) :
    exec (.ldVxK x) s = .next (s.setReg x (BitVec.ofNat 8 k)) := by
  simp only [exec, execLdVxK, h]

theorem exec_ldVxK_of_none {s : State} (x : RegIx) (h : s.lowestKey = none) :
    exec (.ldVxK x) s = .next (s.setPc (s.pc - 2)) := by
  simp only [exec, execLdVxK, h]

/-! ## The fields that stores and loads leave alone -/

@[simp] theorem State.storeRegs_index (s : State) (n : Nat) : (s.storeRegs n).index = s.index := by rw [s.storeRegs_eq n]
@[simp] theorem State.storeRegs_pc (s : State) (n : Nat) : (s.storeRegs n).pc = s.pc := by rw [s.storeRegs_eq n]
@[simp] theorem State.storeRegs_stack (s : State) (n : Nat) : (s.storeRegs n).stack = s.stack := by rw [s.storeRegs_eq n]
@[simp] theorem State.storeRegs_sp (s : State) (n : Nat) : (s.storeRegs n).sp = s.sp := by rw [s.storeRegs_eq n]
@[simp] theorem State.storeRegs_dt (s : State) (n : Nat) : (s.storeRegs n).dt = s.dt := by rw [s.storeRegs_eq n]
@[simp] theorem State.storeRegs_st (s : State) (n : Nat) : (s.storeRegs n).st = s.st := by rw [s.storeRegs_eq n]
@[simp] theorem State.storeRegs_fb (s : State) (n : Nat) : (s.storeRegs n).fb = s.fb := by rw [s.storeRegs_eq n]
@[simp] theorem State.storeRegs_keys (s : State) (n : Nat) : (s.storeRegs n).keys = s.keys := by rw [s.storeRegs_eq n]
@[simp] theorem State.storeRegs_fault (s : State) (n : Nat) : (s.storeRegs n).fault = s.fault := by rw [s.storeRegs_eq n]
@[simp] theorem State.storeRegs_draws (s : State) (n : Nat) : (s.storeRegs n).draws = s.draws := by rw [s.storeRegs_eq n]
@[simp] theorem State.storeRegs_reg (s : State) (n : Nat) (r : RegIx) : (s.storeRegs n).reg r = s.reg r := by
  rw [s.storeRegs_eq n]; rfl

@[simp] theorem State.loadRegs_index (s : State) (n : Nat) : (s.loadRegs n).index = s.index := by rw [s.loadRegs_eq n]
@[simp] theorem State.loadRegs_pc (s : State) (n : Nat) : (s.loadRegs n).pc = s.pc := by rw [s.loadRegs_eq n]
@[simp] theorem State.loadRegs_stack (s : State) (n : Nat) : (s.loadRegs n).stack = s.stack := by rw [s.loadRegs_eq n]
@[simp] theorem State.loadRegs_sp (s : State) (n : Nat) : (s.loadRegs n).sp = s.sp := by rw [s.loadRegs_eq n]
@[simp] theorem State.loadRegs_dt (s : State) (n : Nat) : (s.loadRegs n).dt = s.dt := by rw [s.loadRegs_eq n]
@[simp] theorem State.loadRegs_st (s : State) (n : Nat) : (s.loadRegs n).st = s.st := by rw [s.loadRegs_eq n]
@[simp] theorem State.loadRegs_fb (s : State) (n : Nat) : (s.loadRegs n).fb = s.fb := by rw [s.loadRegs_eq n]
@[simp] theorem State.loadRegs_keys (s : State) (n : Nat) : (s.loadRegs n).keys = s.keys := by rw [s.loadRegs_eq n]
@[simp] theorem State.loadRegs_fault (s : State) (n : Nat) : (s.loadRegs n).fault = s.fault := by rw [s.loadRegs_eq n]
@[simp] theorem State.loadRegs_mem (s : State) (n : Nat) : (s.loadRegs n).mem = s.mem := by rw [s.loadRegs_eq n]
@[simp] theorem State.loadRegs_draws (s : State) (n : Nat) : (s.loadRegs n).draws = s.draws := by rw [s.loadRegs_eq n]
@[simp] theorem State.loadRegs_memRead (s : State) (n a : Nat) : (s.loadRegs n).memRead a = s.memRead a := by
  rw [s.loadRegs_eq n]; rfl

@[simp] theorem State.storeDigits_index (s : State) (d : Byte × Byte × Byte) : (s.storeDigits d).index = s.index := rfl
@[simp] theorem State.storeDigits_pc (s : State) (d : Byte × Byte × Byte) : (s.storeDigits d).pc = s.pc := rfl
@[simp] theorem State.storeDigits_stack (s : State) (d : Byte × Byte × Byte) : (s.storeDigits d).stack = s.stack := rfl
@[simp] theorem State.storeDigits_sp (s : State) (d : Byte × Byte × Byte) : (s.storeDigits d).sp = s.sp := rfl
@[simp] theorem State.storeDigits_dt (s : State) (d : Byte × Byte × Byte) : (s.storeDigits d).dt = s.dt := rfl
@[simp] theorem State.storeDigits_st (s : State) (d : Byte × Byte × Byte) : (s.storeDigits d).st = s.st := rfl
@[simp] theorem State.storeDigits_fb (s : State) (d : Byte × Byte × Byte) : (s.storeDigits d).fb = s.fb := rfl
@[simp] theorem State.storeDigits_keys (s : State) (d : Byte × Byte × Byte) : (s.storeDigits d).keys = s.keys := rfl
@[simp] theorem State.storeDigits_fault (s : State) (d : Byte × Byte × Byte) : (s.storeDigits d).fault = s.fault := rfl
@[simp] theorem State.storeDigits_draws (s : State) (d : Byte × Byte × Byte) : (s.storeDigits d).draws = s.draws := rfl
@[simp] theorem State.storeDigits_reg (s : State) (d : Byte × Byte × Byte) (r : RegIx) : (s.storeDigits d).reg r = s.reg r := rfl

/-! ## What an instruction can do to the state -/

/-- The instructions that write Vx and no other register. -/
def WritesReg (x : RegIx) (i : Instr) : Prop :=
  (∃ kk, i = .ldByte x kk ∨ i = .addByte x kk) ∨
  (∃ y, i = .ldReg x y ∨ i = .orReg x y ∨ i = .andReg x y ∨ i = .xorReg x y) ∨
  i = .ldVxDT x ∨ i = .ldVxK x

/-- The arithmetic instructions that write a flag and then Vx (42_alu.md R163). -/
def WritesFlagThenReg (x : RegIx) (i : Instr) : Prop :=
  (∃ y, i = .addReg x y ∨ i = .subReg x y ∨ i = .subnReg x y) ∨ i = .shr x ∨ i = .shl x

/-- The instructions that write the pc and no more of the state: jumps, skips, and the wait for a key. -/
def WritesPcAlone (i : Instr) : Prop :=
  (∃ nnn, i = .jp nnn ∨ i = .jpV0 nnn) ∨ (∃ x kk, i = .seByte x kk ∨ i = .sneByte x kk) ∨
  (∃ x y, i = .seReg x y ∨ i = .sneReg x y) ∨ ∃ x, i = .skp x ∨ i = .sknp x ∨ i = .ldVxK x

/-- The instructions that write I. -/
def WritesIndex (i : Instr) : Prop := (∃ nnn, i = .ldI nnn) ∨ (∃ x, i = .addIVx x) ∨ ∃ x, i = .ldFVx x

/-- `Effect s i t`: from `s` the instruction `i` can leave `t`, said by the state's operation it ends in. -/
inductive Effect (s : State) : Instr → State → Prop
  | reg {i : Instr} {x : RegIx} (hi : WritesReg x i) (b : Byte) : Effect s i (s.setReg x b)
  | flagThenReg {i : Instr} {x : RegIx} (hi : WritesFlagThenReg x i) (c : Bool) (b : Byte) : Effect s i (s.setFlagThenReg c x b)
  | pc {i : Instr} (hi : WritesPcAlone i) (a : Word) : Effect s i (s.setPc a)
  | index {i : Instr} (hi : WritesIndex i) (a : Word) : Effect s i (s.setIndex a)
  | call (nnn : Addr) : Effect s (.call nnn) (s.callTo (zextAddr nnn))
  | ret : Effect s .ret s.returnToCaller
  | delayTimer (x : RegIx) : Effect s (.ldDTVx x) (s.setDT (s.reg x))
  | soundTimer (x : RegIx) : Effect s (.ldSTVx x) (s.setST (s.reg x))
  | random (x : RegIx) (kk : Byte) : Effect s (.rnd x kk) ((s.setReg x (s.rnd &&& kk)).consumeDraw)
  | digits (x : RegIx) : Effect s (.ldBVx x) (s.storeDigits (bcdDigits (s.reg x)))
  | store (x : RegIx) : Effect s (.ldMemVx x) (s.storeRegs (x.toNat + 1))
  | load (x : RegIx) : Effect s (.ldVxMem x) (s.loadRegs (x.toNat + 1))
  | clear : Effect s .cls (s.setFb 0)
  | draw (x y : RegIx) (n : Nibble) (f : Framebuffer) (b : Byte) : Effect s (.drw x y n) ((s.setFb f).setReg VF b)

theorem State.skipIf_eq_setPc (s : State) (c : Bool) : ∃ a, s.skipIf c = s.setPc a := by
  cases c
  · exact ⟨s.pc, rfl⟩
  · exact ⟨s.pc + 2, rfl⟩

theorem Effect.of_skipIf (s : State) {i : Instr} (hi : WritesPcAlone i) (c : Bool) : Effect s i (s.skipIf c) := by
  obtain ⟨a, ha⟩ := s.skipIf_eq_setPc c
  exact ha ▸ .pc hi a

/-- Every instruction answers a next state in every state, and it does to the state what `Effect` says. -/
theorem exec_effect (i : Instr) (s : State) : ∃ t, exec i s = .next t ∧ Effect s i t := by
  cases i
  case cls => exact ⟨_, rfl, .clear⟩
  case ret => exact ⟨_, rfl, .ret⟩
  case call nnn => exact ⟨_, rfl, .call nnn⟩
  case jp nnn => exact ⟨_, rfl, .pc (.inl ⟨nnn, .inl rfl⟩) _⟩
  case jpV0 nnn => exact ⟨_, rfl, .pc (.inl ⟨nnn, .inr rfl⟩) _⟩
  case seByte x kk => exact ⟨_, rfl, .of_skipIf s (.inr (.inl ⟨x, kk, .inl rfl⟩)) _⟩
  case sneByte x kk => exact ⟨_, rfl, .of_skipIf s (.inr (.inl ⟨x, kk, .inr rfl⟩)) _⟩
  case seReg x y => exact ⟨_, rfl, .of_skipIf s (.inr (.inr (.inl ⟨x, y, .inl rfl⟩))) _⟩
  case sneReg x y => exact ⟨_, rfl, .of_skipIf s (.inr (.inr (.inl ⟨x, y, .inr rfl⟩))) _⟩
  case skp x => exact ⟨_, rfl, .of_skipIf s (.inr (.inr (.inr ⟨x, .inl rfl⟩))) _⟩
  case sknp x => exact ⟨_, rfl, .of_skipIf s (.inr (.inr (.inr ⟨x, .inr (.inl rfl)⟩))) _⟩
  case ldByte x kk => exact ⟨_, rfl, .reg (.inl ⟨kk, .inl rfl⟩) _⟩
  case addByte x kk => exact ⟨_, rfl, .reg (.inl ⟨kk, .inr rfl⟩) _⟩
  case ldReg x y => exact ⟨_, rfl, .reg (.inr (.inl ⟨y, .inl rfl⟩)) _⟩
  case orReg x y => exact ⟨_, rfl, .reg (.inr (.inl ⟨y, .inr (.inl rfl)⟩)) _⟩
  case andReg x y => exact ⟨_, rfl, .reg (.inr (.inl ⟨y, .inr (.inr (.inl rfl))⟩)) _⟩
  case xorReg x y => exact ⟨_, rfl, .reg (.inr (.inl ⟨y, .inr (.inr (.inr rfl))⟩)) _⟩
  case ldVxDT x => exact ⟨_, rfl, .reg (.inr (.inr (.inl rfl))) _⟩
  case addReg x y => exact ⟨_, rfl, .flagThenReg (.inl ⟨y, .inl rfl⟩) _ _⟩
  case subReg x y => exact ⟨_, rfl, .flagThenReg (.inl ⟨y, .inr (.inl rfl)⟩) _ _⟩
  case subnReg x y => exact ⟨_, rfl, .flagThenReg (.inl ⟨y, .inr (.inr rfl)⟩) _ _⟩
  case shr x => exact ⟨_, rfl, .flagThenReg (.inr (.inl rfl)) _ _⟩
  case shl x => exact ⟨_, rfl, .flagThenReg (.inr (.inr rfl)) _ _⟩
  case ldI nnn => exact ⟨_, rfl, .index (.inl ⟨nnn, rfl⟩) _⟩
  case addIVx x => exact ⟨_, rfl, .index (.inr (.inl ⟨x, rfl⟩)) _⟩
  case ldFVx x => exact ⟨_, rfl, .index (.inr (.inr ⟨x, rfl⟩)) _⟩
  case ldDTVx x => exact ⟨_, rfl, .delayTimer x⟩
  case ldSTVx x => exact ⟨_, rfl, .soundTimer x⟩
  case rnd x kk => exact ⟨_, rfl, .random x kk⟩
  case ldBVx x => exact ⟨_, rfl, .digits x⟩
  case ldMemVx x => exact ⟨_, rfl, .store x⟩
  case ldVxMem x => exact ⟨_, rfl, .load x⟩
  case drw x y n => exact ⟨_, rfl, .draw x y n _ _⟩
  case ldVxK x =>
    obtain ⟨k, -, -, -, hk⟩ | ⟨-, hk⟩ := s.lowestKey_cases
    · exact ⟨_, exec_ldVxK_of_some x hk, .reg (.inr (.inr (.inr rfl))) _⟩
    · exact ⟨_, exec_ldVxK_of_none x hk, .pc (.inr (.inr (.inr ⟨x, .inr (.inr rfl)⟩))) _⟩

theorem effect_of_exec {i : Instr} {s t : State} (h : exec i s = .next t) : Effect s i t := by
  obtain ⟨u, hu, he⟩ := exec_effect i s
  cases h.symm.trans hu
  exact he

end Sys2Proof.Machine

namespace Sys2Proof.Machine

/-! ## The writers of each piece of state (10_state.md R32) -/

section Writers

variable {i : Instr} {s t : State}

theorem keys_of_exec (h : exec i s = .next t) : t.keys = s.keys := by
  cases effect_of_exec h <;> simp

theorem pc_writers_of_exec (h : exec i s = .next t) (hne : t.pc ≠ s.pc) :
    i = .ret ∨ (∃ nnn, i = .call nnn) ∨ WritesPcAlone i := by
  cases effect_of_exec h
  case ret => exact .inl rfl
  case call nnn => exact .inr (.inl ⟨nnn, rfl⟩)
  case pc _ hi => exact .inr (.inr hi)
  all_goals simp at hne

theorem reg_writers_of_exec {r : RegIx} (h : exec i s = .next t) (hne : t.reg r ≠ s.reg r) :
    WritesReg r i ∨ WritesFlagThenReg r i ∨ (∃ kk, i = .rnd r kk) ∨ (∃ x : RegIx, r.toNat ≤ x.toNat ∧ i = .ldVxMem x) ∨
      (r = VF ∧ ((∃ x, WritesFlagThenReg x i) ∨ ∃ x y n, i = .drw x y n)) := by
  cases effect_of_exec h
  case reg x b hi =>
    obtain rfl : r = x := by by_contra hrx; exact hne (s.setReg_reg_ne b hrx)
    exact .inl hi
  case flagThenReg x c b hi =>
    by_cases hrx : r = x
    · exact .inr (.inl (hrx ▸ hi))
    · have hVF : r = VF := by by_contra hVF; exact hne (by simp [hrx, hVF])
      exact .inr (.inr (.inr (.inr ⟨hVF, .inl ⟨x, hi⟩⟩)))
  case random x kk =>
    obtain rfl : r = x := by by_contra hrx; exact hne (by simp [hrx])
    exact .inr (.inr (.inl ⟨kk, rfl⟩))
  case load x =>
    have hle : r.toNat ≤ x.toNat := by
      by_contra hlt
      exact hne (by rw [s.loadRegs_reg _ (by have := x.isLt; omega), if_neg (by omega)])
    exact .inr (.inr (.inr (.inl ⟨x, hle, rfl⟩)))
  case draw x y n f b =>
    have hVF : r = VF := by by_contra hVF; exact hne (by simp [hVF])
    exact .inr (.inr (.inr (.inr ⟨hVF, .inr ⟨x, y, n, rfl⟩⟩)))
  all_goals simp at hne

theorem fb_writers_of_exec (h : exec i s = .next t) (hne : t.fb ≠ s.fb) : i = .cls ∨ ∃ x y n, i = .drw x y n := by
  cases effect_of_exec h
  case clear => exact .inl rfl
  case draw x y n _ _ => exact .inr ⟨x, y, n, rfl⟩
  all_goals simp at hne

theorem stack_writers_of_exec (h : exec i s = .next t) (hne : ¬ SameStack s t) : i = .ret ∨ ∃ nnn, i = .call nnn := by
  cases effect_of_exec h
  case ret => exact .inl rfl
  case call nnn => exact .inr ⟨nnn, rfl⟩
  all_goals simp at hne

theorem fault_writers_of_exec (h : exec i s = .next t) (hne : t.fault ≠ s.fault) : i = .ret ∨ ∃ nnn, i = .call nnn := by
  cases effect_of_exec h
  case ret => exact .inl rfl
  case call nnn => exact .inr ⟨nnn, rfl⟩
  all_goals simp at hne

theorem dt_writers_of_exec (h : exec i s = .next t) (hne : t.dt ≠ s.dt) : ∃ x, i = .ldDTVx x := by
  cases effect_of_exec h
  case delayTimer x => exact ⟨x, rfl⟩
  all_goals simp at hne

theorem st_writers_of_exec (h : exec i s = .next t) (hne : t.st ≠ s.st) : ∃ x, i = .ldSTVx x := by
  cases effect_of_exec h
  case soundTimer x => exact ⟨x, rfl⟩
  all_goals simp at hne

theorem index_writers_of_exec (h : exec i s = .next t) (hne : t.index ≠ s.index) : WritesIndex i := by
  cases effect_of_exec h
  case index _ hi => exact hi
  all_goals simp at hne

theorem memory_writers_of_exec (h : exec i s = .next t) (hne : ¬ SameMemory s t) :
    (∃ x, i = .ldBVx x) ∨ ∃ x, i = .ldMemVx x := by
  cases effect_of_exec h
  case digits x => exact .inl ⟨x, rfl⟩
  case store x => exact .inr ⟨x, rfl⟩
  all_goals simp at hne

theorem draws_writers_of_exec (h : exec i s = .next t) (hne : t.draws ≠ s.draws) : ∃ x kk, i = .rnd x kk := by
  cases effect_of_exec h
  case random x kk => exact ⟨x, kk, rfl⟩
  all_goals simp at hne

end Writers

theorem keys_of_step {s t : State} (h : step s = .next t) : t.keys = s.keys := by
  obtain ⟨-, ⟨i, u, -, hu, rfl⟩ | ⟨k, -, rfl⟩⟩ := step_cases h
  · have hkeys : u.keys = s.advance.keys := keys_of_exec hu
    unfold State.commit
    split
    · exact hkeys
    · rfl
  · rfl

/-- Settles O19: clause by clause, the writers found above, in the order the obligation lists them. -/
theorem eachPieceOfStateHasItsWriters : Obligations.EachPieceOfStateHasItsWriters := by
  refine ⟨fun i s t h => ⟨keys_of_exec h, fun hne => ?pc, fun r hne => ?reg, fb_writers_of_exec h, stack_writers_of_exec h,
    fault_writers_of_exec h, dt_writers_of_exec h, st_writers_of_exec h, index_writers_of_exec h, memory_writers_of_exec h,
    draws_writers_of_exec h⟩, fun s t h => keys_of_step h⟩
  case pc =>
    rcases pc_writers_of_exec h hne with rfl | ⟨nnn, rfl⟩ | ⟨nnn, rfl | rfl⟩ | hskip
    · exact .inl rfl
    · exact .inr (.inl ⟨nnn, .inr (.inl rfl)⟩)
    · exact .inr (.inl ⟨nnn, .inl rfl⟩)
    · exact .inr (.inl ⟨nnn, .inr (.inr rfl)⟩)
    · exact .inr (.inr hskip)
  case reg =>
    rcases reg_writers_of_exec h hne with hreg | hflag | ⟨kk, rfl⟩ | hload | ⟨rfl, ⟨x, hflag⟩ | ⟨x, y, n, rfl⟩⟩
    · rcases hreg with ⟨kk, rfl | rfl⟩ | ⟨y, rfl | rfl | rfl | rfl⟩ | rfl | rfl <;> simp
    · rcases hflag with ⟨y, rfl | rfl | rfl⟩ | rfl | rfl <;> simp
    · simp
    · simp [hload]
    · rcases hflag with ⟨y, rfl | rfl | rfl⟩ | rfl | rfl <;> simp
    · simp

/-- Settles O20: the case `r = VF` of the writers of a register; LD Vx,[I] reaches VF with x = VF alone. -/
theorem vfChangesOnlyAsFlagOrDestination : Obligations.VFChangesOnlyAsFlagOrDestination := by
  intro i s t h hne
  rcases reg_writers_of_exec h hne with hreg | hflag | ⟨kk, rfl⟩ | ⟨x, hx, rfl⟩ | ⟨-, ⟨x, hflag⟩ | ⟨x, y, n, rfl⟩⟩
  · rcases hreg with ⟨kk, rfl | rfl⟩ | ⟨y, rfl | rfl | rfl | rfl⟩ | rfl | rfl <;> simp
  · rcases hflag with ⟨y, rfl | rfl | rfl⟩ | rfl | rfl <;> simp
  · simp
  · obtain rfl : x = VF := BitVec.eq_of_toNat_eq (Nat.le_antisymm (Nat.le_of_lt_succ x.isLt) hx)
    simp
  · rcases hflag with ⟨y, rfl | rfl | rfl⟩ | rfl | rfl <;> simp
  · simp

end Sys2Proof.Machine

namespace Sys2Proof.Machine

/-! ## The step of a running CORE (40_step_cycle.md R110) -/

theorem step_of_instr {s t : State} {i : Instr} (hr : s.Running) (hf : s.Fetches i) (hx : exec i s.advance = .next t) :
    step s = .next (s.commit t) := by
  have hrun : s.fault = .running := hr
  have hdec : decodeWord s.fetchWord = .instr i := hf
  simp only [step, hrun, hdec, hx]

theorem State.commit_eq (s t : State) : s.commit t =
    if t.fault = .running then { t with dt := tickDown t.dt, st := tickDown t.st } else { s with fault := t.fault } := rfl

theorem exec_total (i : Instr) (s : State) : ∃ t, exec i s = .next t :=
  (exec_effect i s).imp fun _ h => h.1

/-- Settles O7: the step equation of a fetched instruction, with `commit` written out. -/
theorem stepRunsTheDecodedInstruction : Obligations.StepRunsTheDecodedInstruction := by
  intro s i hr hf _
  obtain ⟨t, ht⟩ := exec_total i s.advance
  exact ⟨rfl, t, ht, (step_of_instr hr hf ht).trans (by rw [State.commit_eq])⟩

/-- Settles O14: `exec` is total, and a running step is `exec` and `commit`, or on an unrecognised word the advance and the tick. -/
theorem everyRunningStepAnswersANextState : Obligations.EveryRunningStepAnswersANextState := by
  refine ⟨exec_total, fun s hr => ?_⟩
  cases hd : decodeWord s.fetchWord with
  | instr i =>
    obtain ⟨t, ht⟩ := exec_total i s.advance
    exact ⟨_, step_of_instr hr hd ht⟩
  | unrecognised k => exact ⟨_, step_of_unrecognised hr hd⟩

/-- Settles O12: a latch that is set selects one of `step`'s two fault outcomes. -/
theorem haltedCoreTakesNoStep : Obligations.HaltedCoreTakesNoStep := by
  intro s
  constructor
  · intro h; simp only [step, h]
  · intro h; simp only [step, h]

/-- Settles O9. -/
theorem fetchIsBigEndianAndWraps : Obligations.FetchIsBigEndianAndWraps := by
  intro s
  have happend : ∀ hi lo : Byte, (wordOfBytes hi lo).toNat = 256 * hi.toNat + lo.toNat := fun hi lo => by
    have hlo := lo.isLt
    rw [wordOfBytes, BitVec.toNat_append, ← Nat.shiftLeft_add_eq_or_of_lt hlo, Nat.shiftLeft_eq]
    omega
  exact happend _ _

/-! ## The two stack limits (60_exceptions.md R241, R244) -/

theorem State.callTo_of_full {s : State} (a : Word) (h : s.sp.val = 16) : s.callTo a = s.raiseFault .stackOverflow :=
  dif_neg (by omega)

theorem State.returnToCaller_of_empty {s : State} (h : s.sp.val = 0) : s.returnToCaller = s.raiseFault .stackUnderflow :=
  dif_neg (by omega)

/-- Settles O11: at the limit `exec` sets the latch, and `commit` then keeps the state before the step. -/
theorem stackLimitFaultsArePrecise : Obligations.StackLimitFaultsArePrecise := by
  intro s hr
  constructor
  case left =>
    intro nnn hf hsp
    have hx : exec (.call nnn) s.advance = .next (s.advance.raiseFault .stackOverflow) := by
      rw [exec_call, State.callTo_of_full (s := s.advance) _ hsp]
    exact (step_of_instr hr hf hx).trans (by rw [State.commit_raised (by simp)]; rfl)
  case right =>
    intro hf hsp
    have hx : exec .ret s.advance = .next (s.advance.raiseFault .stackUnderflow) := by
      rw [exec_ret, State.returnToCaller_of_empty (s := s.advance) hsp]
    exact (step_of_instr hr hf hx).trans (by rw [State.commit_raised (by simp)]; rfl)

/-- An instruction run with a clear latch leaves it clear, but for the two stack limits. -/
theorem fault_of_exec {i : Instr} {s t : State} (h : exec i s = .next t) (hs : s.Running) (ht : ¬ t.Running) :
    (t.fault = .stackOverflow ∧ s.sp.val = 16 ∧ ∃ nnn, i = .call nnn) ∨
    (t.fault = .stackUnderflow ∧ s.sp.val = 0 ∧ i = .ret) := by
  rcases fault_writers_of_exec h (fun e => ht (e.trans hs)) with rfl | ⟨nnn, rfl⟩
  case inl =>
    rw [exec_ret] at h; cases h
    obtain ⟨_, hpop⟩ | ⟨hsp, hraise⟩ := s.returnToCaller_cases
    · exact absurd (by rw [hpop]; exact hs) ht
    · exact .inr ⟨by rw [hraise]; rfl, hsp, rfl⟩
  case inr =>
    rw [exec_call] at h; cases h
    obtain ⟨_, hpush⟩ | ⟨hsp, hraise⟩ := s.callTo_cases (zextAddr nnn)
    · exact absurd (by rw [hpush]; exact hs) ht
    · exact .inl ⟨by rw [hraise]; rfl, hsp, nnn, rfl⟩

/-- A step that ends with a clear latch is the execute phase and the tick, or on an unrecognised word the tick alone. -/
theorem completed_step_cases {s t : State} (h : step s = .next t) (ht : t.Running) :
    (∃ i u, s.Fetches i ∧ exec i s.advance = .next u ∧ t = u.tick) ∨
    (∃ k, decodeWord s.fetchWord = .unrecognised k ∧ t = s.advance.tick) := by
  obtain ⟨-, ⟨i, u, hd, hu, rfl⟩ | hk⟩ := step_cases h
  case inr => exact .inr hk
  case inl =>
    by_cases hf : u.fault = .running
    · exact .inl ⟨i, u, hd, hu, State.commit_running hf⟩
    · rw [State.commit_raised hf] at ht
      exact absurd ht hf

/-- A step that ends with the latch set is the state before it with the latch of the execute phase. -/
theorem raised_step_cases {s t : State} (h : step s = .next t) (ht : ¬ t.Running) :
    ∃ i u, s.Fetches i ∧ exec i s.advance = .next u ∧ ¬ u.Running ∧ t = s.raiseFault u.fault := by
  obtain ⟨hs, ⟨i, u, hd, hu, rfl⟩ | ⟨_, -, rfl⟩⟩ := step_cases h
  case inr => exact absurd hs ht
  case inl =>
    by_cases hf : u.fault = .running
    · exact absurd (by rw [State.commit_running hf]; exact hf) ht
    · exact ⟨i, u, hd, hu, hf, State.commit_raised hf⟩

/-- Settles O13: a raising step comes from a raising execute phase, and only the two limits raise there. -/
theorem onlyTheStackLimitsRaise : Obligations.OnlyTheStackLimitsRaise := by
  intro s t h ht
  obtain ⟨hs, -⟩ := step_cases h
  obtain ⟨i, u, hf, hu, hraised, rfl⟩ := raised_step_cases h ht
  refine ⟨rfl, ?_⟩
  rcases fault_of_exec hu hs hraised with ⟨hlatch, hsp, nnn, rfl⟩ | ⟨hlatch, hsp, rfl⟩
  · exact .inl ⟨hlatch, hsp, nnn, hf⟩
  · exact .inr ⟨hlatch, hsp, hf⟩

/-! ## The timers (40_step_cycle.md R114, 45_keypad_timers.md R223, R224, R227) -/

theorem fetches_injective {s : State} {i j : Instr} (hi : s.Fetches i) (hj : s.Fetches j) : i = j := by
  cases hi.symm.trans hj; rfl

theorem dt_of_completed_step {s t : State} (h : step s = .next t) (ht : t.Running) (hw : ∀ x, ¬ s.Fetches (.ldDTVx x)) :
    t.dt.toNat = s.dt.toNat - 1 := by
  obtain ⟨i, u, hf, hu, rfl⟩ | ⟨_, -, rfl⟩ := completed_step_cases h ht
  · have hdt : u.dt = s.advance.dt := by
      by_contra hne
      obtain ⟨x, rfl⟩ := dt_writers_of_exec hu hne
      exact hw x hf
    rw [State.tick_dt, tickDown_toNat, hdt, State.advance_dt]
  · rw [State.tick_dt, tickDown_toNat, State.advance_dt]

theorem st_of_completed_step {s t : State} (h : step s = .next t) (ht : t.Running) (hw : ∀ x, ¬ s.Fetches (.ldSTVx x)) :
    t.st.toNat = s.st.toNat - 1 := by
  obtain ⟨i, u, hf, hu, rfl⟩ | ⟨_, -, rfl⟩ := completed_step_cases h ht
  · have hst : u.st = s.advance.st := by
      by_contra hne
      obtain ⟨x, rfl⟩ := st_writers_of_exec hu hne
      exact hw x hf
    rw [State.tick_st, tickDown_toNat, hst, State.advance_st]
  · rw [State.tick_st, tickDown_toNat, State.advance_st]

/-- A completed step that fetched `i` is `i`'s execute phase and the tick. -/
theorem completed_step_of_fetches {s t : State} {i : Instr} (h : step s = .next t) (ht : t.Running) (hf : s.Fetches i) :
    ∃ u, exec i s.advance = .next u ∧ t = u.tick := by
  obtain ⟨j, u, hj, hu, rfl⟩ | ⟨k, hk, -⟩ := completed_step_cases h ht
  · cases fetches_injective hf hj; exact ⟨u, hu, rfl⟩
  · cases hk.symm.trans hf

/-- Settles O10. -/
theorem completedStepTicksBothTimers : Obligations.CompletedStepTicksBothTimers := by
  intro s t h ht
  refine ⟨dt_of_completed_step h ht, fun x hf => ?dt, st_of_completed_step h ht, fun x hf => ?st⟩
  case dt =>
    obtain ⟨u, hu, rfl⟩ := completed_step_of_fetches h ht hf
    rw [exec_ldDTVx] at hu; cases hu
    exact tickDown_toNat _
  case st =>
    obtain ⟨u, hu, rfl⟩ := completed_step_of_fetches h ht hf
    rw [exec_ldSTVx] at hu; cases hu
    exact tickDown_toNat _

/-- A run of `n + 1` steps is a step and a run of `n`, in any machine behind the host's interface. -/
theorem run_succ_iff {M : Host.Core} {n : Nat} {s t : M.State} :
    M.run (n + 1) s = .next t ↔ ∃ u, M.step s = .next u ∧ M.run n u = .next t := by
  simp only [Host.Core.run]
  cases M.step s with
  | next u => simp
  | fault r => simp
  | refused r => simp

theorem running_of_run {n : Nat} {s t : State} (h : core.run n s = .next t) (ht : t.Running) : s.Running := by
  cases n with
  | zero => cases h; exact ht
  | succ n =>
    obtain ⟨u, hu, -⟩ := run_succ_iff.1 h
    exact (step_cases hu).1

/-- Settles O50, by induction on the number of steps: the first step takes one, the run after it the rest. -/
theorem delayTimerRunsDownOverSteps : Obligations.DelayTimerRunsDownOverSteps := by
  intro n
  induction n with
  | zero => intro s t h _ _; cases h; rfl
  | succ n ih =>
    intro s t h ht hw
    obtain ⟨u, hu, hrest⟩ := run_succ_iff.1 h
    have hfirst : u.dt.toNat = s.dt.toNat - 1 :=
      dt_of_completed_step hu (running_of_run hrest ht) (hw 0 (Nat.succ_pos n) s rfl)
    have hlater : t.dt.toNat = u.dt.toNat - n :=
      ih u t hrest ht fun m hm w hmw => hw (m + 1) (Nat.succ_lt_succ hm) w (run_succ_iff.2 ⟨u, hu, hmw⟩)
    omega

/-! ## The canonical form of memory -/

theorem wf_of_exec {i : Instr} {s t : State} (h : exec i s = .next t) (hs : s.Inv) : t.Inv := by
  cases effect_of_exec h
  case digits x => exact State.wf_storeDigits _ hs
  case store x => exact State.wf_storeRegs _ hs
  all_goals simpa [State.Inv] using hs

/-- Settles O15: the advance, the tick and the raise leave memory alone, and every instruction keeps its form. -/
theorem stepKeepsMemoryCanonical : Obligations.StepKeepsMemoryCanonical := by
  intro s t hs h
  obtain ⟨-, ⟨i, u, -, hu, rfl⟩ | ⟨_, -, rfl⟩⟩ := step_cases h
  case inr => exact hs
  case inl =>
    have hu : u.Inv := wf_of_exec (s := s.advance) hu hs
    unfold State.commit
    split
    · exact hu
    · exact hs

/-- Settles O16. -/
theorem resetMemoryIsCanonical : Obligations.ResetMemoryIsCanonical := ⟨reset_mem_wf, State.wf_resetWith⟩

/-- The bytes of an image that fits are stored from 0x200 (20_memory.md R62). -/
theorem State.hostLoad_of_fits {s : State} {image : List Byte} (h : image.length ≤ 3584) :
    s.hostLoad image = .loaded (s.storeBytes 0x200 image) :=
  if_pos (decide_eq_true h)

theorem State.hostLoad_of_too_long {s : State} {image : List Byte} (h : 3584 < image.length) : s.hostLoad image = .tooLarge :=
  if_neg (by simpa [imageFits] using h)

/-- Settles O17: reset stores the font table, a load stores its bytes, and a key write stores none. -/
theorem hostMovesKeepMemoryCanonical : Obligations.HostMovesKeepMemoryCanonical := by
  intro s hs
  refine ⟨fun font => State.wf_resetWith font, fun k pressed => hs, fun image t h => ?load, fun addr data t h => ?port⟩
  case load =>
    by_cases hl : image.length ≤ 3584
    · rw [State.hostLoad_of_fits hl] at h; cases h
      exact State.wf_storeBytes _ _ hs
    · rw [State.hostLoad_of_too_long (by omega)] at h; cases h
  case port =>
    obtain ⟨-, hp⟩ | ⟨-, hp⟩ := s.loadPort_cases addr data
    · rw [hp] at h; cases h
      exact State.wf_memWrite _ _ hs
    · rw [hp] at h; cases h

theorem Memory.read_of_lt {m : Memory} {low a : Nat} (h : Memory.wfFrom low m = true) (ha : a < low) : m.read a = resetByte a := by
  induction m generalizing low with
  | nil => rfl
  | cons c rest ih =>
    obtain ⟨k, b⟩ := c
    obtain ⟨hk, -, -, hrest⟩ := (Memory.wfFrom_cons ..).1 h
    rw [Memory.read, if_neg (by omega), ih hrest (by omega)]

/-- The first entry of a canonical memory is seen by a read: no canonical memory that starts later reads the same there. -/
theorem Memory.read_head_ne {low a : Nat} {b : Byte} {rest m : Memory} (h : Memory.wfFrom low ((a, b) :: rest) = true)
    (hm : Memory.wfFrom (a + 1) m = true) : Memory.read ((a, b) :: rest) a ≠ m.read a := by
  obtain ⟨-, -, hb, -⟩ := (Memory.wfFrom_cons ..).1 h
  rw [Memory.read, if_pos rfl, Memory.read_of_lt hm (Nat.lt_succ_self a)]
  exact hb

theorem Memory.eq_of_read_eq {m m' : Memory} {low : Nat} (h : Memory.wfFrom low m = true) (h' : Memory.wfFrom low m' = true)
    (hread : ∀ a < 4096, m.read a = m'.read a) : m = m' := by
  induction m generalizing low m' with
  | nil =>
    cases m' with
    | nil => rfl
    | cons c' rest' =>
      obtain ⟨a', b'⟩ := c'
      obtain ⟨-, ha', -, -⟩ := (Memory.wfFrom_cons ..).1 h'
      exact absurd (hread a' ha').symm (Memory.read_head_ne h' rfl)
  | cons c rest ih =>
    obtain ⟨a, b⟩ := c
    obtain ⟨hla, ha, hb, hrest⟩ := (Memory.wfFrom_cons ..).1 h
    cases m' with
    | nil => exact absurd (hread a ha) (Memory.read_head_ne h rfl)
    | cons c' rest' =>
      obtain ⟨a', b'⟩ := c'
      obtain ⟨hla', ha', hb', hrest'⟩ := (Memory.wfFrom_cons ..).1 h'
      rcases Nat.lt_trichotomy a a' with hlt | rfl | hgt
      · exact absurd (hread a ha) (Memory.read_head_ne h ((Memory.wfFrom_cons ..).2 ⟨hlt, ha', hb', hrest'⟩))
      · have hbb : b = b' := by simpa [Memory.read] using hread a ha
        have htail : ∀ k < 4096, Memory.read rest k = Memory.read rest' k := fun k hk => by
          by_cases hak : a = k
          · subst hak
            rw [Memory.read_of_lt hrest (Nat.lt_succ_self a), Memory.read_of_lt hrest' (Nat.lt_succ_self a)]
          · simpa [Memory.read, hak] using hread k hk
        rw [hbb, ih hrest hrest' htail]
      · exact absurd (hread a' ha').symm (Memory.read_head_ne h' ((Memory.wfFrom_cons ..).2 ⟨hgt, ha, hb, hrest⟩))

/-- Settles O18. -/
theorem canonicalMemoriesReadingAlikeAreEqual : Obligations.CanonicalMemoriesReadingAlikeAreEqual :=
  fun _ _ h h' hread => Memory.eq_of_read_eq h h' hread

end Sys2Proof.Machine

namespace Sys2Proof.Machine

/-! ## Noninterference: ST, the keys and the random byte (45_keypad_timers.md R224, 40_step_cycle.md R113) -/

/-- The state with another ST, other keys and another count of random bytes. -/
def State.overlay (s : State) (b : Byte) (ks : BitVec 16) (d : Nat) : State := { s with st := b, keys := ks, draws := d }

section Overlay

variable (s : State) (b : Byte) (ks : BitVec 16) (d : Nat)

theorem State.overlay_skipIf (c : Bool) : (s.overlay b ks d).skipIf c = (s.skipIf c).overlay b ks d := by
  cases c <;> rfl

theorem State.overlay_callTo (a : Word) : (s.overlay b ks d).callTo a = (s.callTo a).overlay b ks d := by
  by_cases h : s.sp.val < 16 <;> simp [State.callTo, State.overlay, State.raiseFault, h]

theorem State.overlay_returnToCaller : (s.overlay b ks d).returnToCaller = s.returnToCaller.overlay b ks d := by
  by_cases h : 0 < s.sp.val <;> simp [State.returnToCaller, State.overlay, State.raiseFault, h]

theorem State.overlay_storeRegs (n : Nat) : (s.overlay b ks d).storeRegs n = (s.storeRegs n).overlay b ks d := by
  induction n with
  | zero => rfl
  | succ k ih => rw [State.storeRegs, ih]; rfl

theorem State.overlay_loadRegs (n : Nat) : (s.overlay b ks d).loadRegs n = (s.loadRegs n).overlay b ks d := by
  induction n with
  | zero => rfl
  | succ k ih => rw [State.loadRegs, ih]; rfl

theorem State.overlay_blitRows (x0 y0 n : Nat) : (s.overlay b ks d).blitRows x0 y0 n = s.blitRows x0 y0 n := by
  induction n with
  | zero => rfl
  | succ r ih => rw [State.blitRows, ih]; rfl

end Overlay

/-- An instruction that neither writes ST nor reads the random byte does the same under any overlay that keeps the keys if it reads
them. -/
theorem exec_overlay {i : Instr} {s t : State} (b : Byte) (ks : BitVec 16) (d : Nat) (h : exec i s = .next t)
    (hst : ∀ x, i ≠ .ldSTVx x) (hrnd : ∀ x kk, i ≠ .rnd x kk)
    (hkeys : ∀ x, i = .skp x ∨ i = .sknp x ∨ i = .ldVxK x → ks = s.keys) :
    exec i (s.overlay b ks d) = .next (t.overlay b ks d) := by
  cases i
  case ldSTVx x => exact absurd rfl (hst x)
  case rnd x kk => exact absurd rfl (hrnd x kk)
  case skp x => cases hkeys x (.inl rfl); cases h; exact congrArg _ (State.overlay_skipIf ..)
  case sknp x => cases hkeys x (.inr (.inl rfl)); cases h; exact congrArg _ (State.overlay_skipIf ..)
  case ldVxK x =>
    cases hkeys x (.inr (.inr rfl))
    have hlow : (s.overlay b s.keys d).lowestKey = s.lowestKey := rfl
    cases hk : s.lowestKey with
    | some k => rw [exec_ldVxK_of_some x hk] at h; cases h; exact exec_ldVxK_of_some x (hlow.trans hk)
    | none => rw [exec_ldVxK_of_none x hk] at h; cases h; exact exec_ldVxK_of_none x (hlow.trans hk)
  case seByte | sneByte | seReg | sneReg => cases h; exact congrArg _ (State.overlay_skipIf ..)
  case call => cases h; exact congrArg _ (State.overlay_callTo ..)
  case ret => cases h; exact congrArg _ (State.overlay_returnToCaller ..)
  case ldMemVx => cases h; exact congrArg _ (State.overlay_storeRegs ..)
  case ldVxMem => cases h; exact congrArg _ (State.overlay_loadRegs ..)
  case drw => cases h; rw [exec_drw, State.overlay_blitRows]; rfl
  all_goals cases h; rfl

theorem st_eq_of_exec {i : Instr} {s t : State} (h : exec i s = .next t) (hw : ∀ x, i ≠ .ldSTVx x) : t.st = s.st := by
  by_contra hne
  obtain ⟨x, hx⟩ := st_writers_of_exec h hne
  exact hw x hx

theorem draws_eq_of_exec {i : Instr} {s t : State} (h : exec i s = .next t) (hw : ∀ x kk, i ≠ .rnd x kk) : t.draws = s.draws := by
  by_contra hne
  obtain ⟨x, kk, hx⟩ := draws_writers_of_exec h hne
  exact hw x kk hx

/-- Another ST before an instruction: another ST, or the same one, after it, and nothing else. -/
theorem exec_withST {i : Instr} {s t : State} (b : Byte) (h : exec i s = .next t) :
    ∃ t' c, exec i { s with st := b } = .next t' ∧ t = { t' with st := c } := by
  by_cases hst : ∃ x, i = .ldSTVx x
  · obtain ⟨x, rfl⟩ := hst
    cases h
    exact ⟨_, _, rfl, rfl⟩
  · by_cases hrnd : ∃ x kk, i = .rnd x kk
    · obtain ⟨x, kk, rfl⟩ := hrnd
      cases h
      exact ⟨_, _, rfl, rfl⟩
    · have hrnd' : ∀ x kk, i ≠ .rnd x kk := fun x kk e => hrnd ⟨x, kk, e⟩
      have ht := exec_overlay b s.keys s.draws h (fun x e => hst ⟨x, e⟩) hrnd' (fun _ _ => rfl)
      have htail : t = { t.overlay b s.keys s.draws with st := t.st } := by
        rw [← keys_of_exec h, ← draws_eq_of_exec h hrnd']; rfl
      exact ⟨_, _, ht, htail⟩

/-- Settles O51: the execute phase carries the difference in ST along, and neither `commit` nor the latch looks at it. -/
theorem soundTimerAffectsNothingElse : Obligations.SoundTimerAffectsNothingElse := by
  intro s t b h
  obtain ⟨hr, ⟨i, u, hd, hu, rfl⟩ | ⟨k, hk, rfl⟩⟩ := step_cases h
  case inr => exact ⟨_, step_of_unrecognised (s := { s with st := b }) hr hk, rfl⟩
  case inl =>
    obtain ⟨u', c, hu', rfl⟩ := exec_withST b hu
    refine ⟨_, step_of_instr (s := { s with st := b }) hr hd hu', ?_⟩
    by_cases hf : u'.fault = .running <;> simp [State.commit_eq, hf]

/-- Settles O52: the overlay of the keys alone, and of the count of random bytes alone. -/
theorem inputsReachOnlyTheirReaders : Obligations.InputsReachOnlyTheirReaders := by
  intro i s t h
  by_cases hst : ∃ x, i = .ldSTVx x
  · obtain ⟨x, rfl⟩ := hst
    cases h
    exact ⟨fun _ _ => rfl, fun _ _ => rfl⟩
  have hst' : ∀ x, i ≠ .ldSTVx x := fun x e => hst ⟨x, e⟩
  refine ⟨fun ks hk => ?keys, fun d hrnd => ?draws⟩
  case draws =>
    have ht := exec_overlay s.st s.keys d h hst' hrnd (fun _ _ => rfl)
    have htail : t.overlay s.st s.keys d = { t with draws := d } := by
      rw [← st_eq_of_exec h hst', ← keys_of_exec h]; rfl
    exact ht.trans (congrArg _ htail)
  case keys =>
    by_cases hrnd : ∃ x kk, i = .rnd x kk
    · obtain ⟨x, kk, rfl⟩ := hrnd
      cases h
      rfl
    · have hrnd' : ∀ x kk, i ≠ .rnd x kk := fun x kk e => hrnd ⟨x, kk, e⟩
      have hread : ∀ x, i = .skp x ∨ i = .sknp x ∨ i = .ldVxK x → ks = s.keys := by
        rintro x (e | e | e)
        exacts [absurd e (hk x).1, absurd e (hk x).2.1, absurd e (hk x).2.2]
      have ht := exec_overlay s.st ks s.draws h hst' hrnd' hread
      have htail : t.overlay s.st ks s.draws = { t with keys := ks } := by
        rw [← st_eq_of_exec h hst', ← draws_eq_of_exec h hrnd']; rfl
      exact ht.trans (congrArg _ htail)

end Sys2Proof.Machine

namespace Sys2Proof.Machine

/-! ## Control flow (41_flow.md) -/

@[simp] theorem zextAddr_toNat (nnn : Addr) : (zextAddr nnn).toNat = nnn.toNat :=
  BitVec.toNat_setWidth_of_le (by decide)

@[simp] theorem zextByte_toNat (b : Byte) : (zextByte b).toNat = b.toNat :=
  BitVec.toNat_setWidth_of_le (by decide)

theorem State.skipIf_eq (s : State) (c : Bool) : s.skipIf c = { s with pc := (s.skipIf c).pc } := by
  cases c <;> rfl

theorem State.skipIf_pc_toNat {c : Bool} {p : Prop} [Decidable p] (s : State) (h : c = true ↔ p) :
    (s.skipIf c).pc.toNat = if p then (s.pc.toNat + 2) % 65536 else s.pc.toNat := by
  by_cases hp : p
  · rw [if_pos hp, h.2 hp]; exact BitVec.toNat_add s.pc 2
  · rw [if_neg hp, Bool.eq_false_iff.2 (mt h.1 hp)]; rfl

theorem State.skipIf_pc_toNat_of_not {c : Bool} {p : Prop} [Decidable p] (s : State) (h : c = true ↔ ¬ p) :
    (s.skipIf c).pc.toNat = if p then s.pc.toNat else (s.pc.toNat + 2) % 65536 := by
  rw [State.skipIf_pc_toNat s h, ite_not]

theorem byte_beq_iff (a b : Byte) : (a == b) = true ↔ a.toNat = b.toNat := by
  rw [beq_iff_eq, BitVec.toNat_eq]

theorem byte_bne_iff (a b : Byte) : (a != b) = true ↔ ¬ a.toNat = b.toNat := by
  rw [bne_iff_ne, ne_eq, BitVec.toNat_eq]

/-- Settles O24. -/
theorem jumpsSetThePc : Obligations.JumpsSetThePc := by
  refine ⟨selects_of_opField fun _ => rfl, selects_of_opField fun _ => rfl, fun s nnn => ⟨?jp, ?jpV0⟩⟩
  case jp => exact ⟨_, exec_jp nnn s, zextAddr_toNat nnn, rfl⟩
  case jpV0 =>
    refine ⟨_, exec_jpV0 nnn s, ?sum, rfl⟩
    have hv := (s.reg 0).isLt
    have hn := nnn.isLt
    rw [State.setPc_pc, BitVec.toNat_add, zextAddr_toNat, zextByte_toNat, Nat.mod_eq_of_lt (by omega)]

theorem State.callTo_of_free {s : State} (a : Word) (h : s.sp.val < 16) :
    s.callTo a = { s with stack := s.stack.set s.sp.val s.pc h, sp := ⟨s.sp.val + 1, by omega⟩, pc := a } :=
  dif_pos h

theorem State.returnToCaller_of_occupied {s : State} (h : 0 < s.sp.val) :
    s.returnToCaller = { s with sp := ⟨s.sp.val - 1, by omega⟩, pc := s.stack[s.sp.val - 1]'(by omega) } :=
  dif_pos h

/-- Settles O25: the push writes the slot at SP, and a slot of another number is another one. -/
theorem callPushesTheAdvancedPc : Obligations.CallPushesTheAdvancedPc := by
  intro s nnn h
  refine ⟨_, (exec_call nnn s).trans (congrArg _ (State.callTo_of_free _ h)), zextAddr_toNat nnn, rfl, ?pushed, ?others, rfl⟩
  case pushed => exact Vector.getElem_set_self h
  case others => exact fun k hk => Vector.getElem_set_ne h k.isLt (Ne.symm hk)

/-- Settles O26. -/
theorem returnPopsTheLastSlot : Obligations.ReturnPopsTheLastSlot := by
  intro s h
  exact ⟨_, (exec_ret s).trans (congrArg _ (State.returnToCaller_of_occupied h)), rfl, rfl, rfl⟩

/-- Settles O27: each form is one skip, on a comparison of bytes that is one of numbers. -/
theorem skipsAddTwoWhenTheConditionHolds : Obligations.SkipsAddTwoWhenTheConditionHolds := by
  refine ⟨selects_of_opField fun _ => rfl, selects_of_opField fun _ => rfl, selects_of_opField fun _ => rfl,
    selects_of_opField fun _ => rfl, fun s x y kk => ⟨?seByte, ?sneByte, ?seReg, ?sneReg⟩⟩
  case seByte => exact ⟨_, exec_seByte x kk s, s.skipIf_eq _, s.skipIf_pc_toNat (byte_beq_iff _ _)⟩
  case sneByte => exact ⟨_, exec_sneByte x kk s, s.skipIf_eq _, s.skipIf_pc_toNat_of_not (byte_bne_iff _ _)⟩
  case seReg => exact ⟨_, exec_seReg x y s, s.skipIf_eq _, s.skipIf_pc_toNat (byte_beq_iff _ _)⟩
  case sneReg => exact ⟨_, exec_sneReg x y s, s.skipIf_eq _, s.skipIf_pc_toNat_of_not (byte_bne_iff _ _)⟩

/-- RET undoes CALL's push, whatever else happened between, as long as it left the stack alone. -/
theorem State.returnToCaller_after_callTo {s u : State} {a : Word} (h : s.sp.val < 16) (hu : SameStack (s.callTo a) u) :
    u.returnToCaller.pc = s.pc ∧ u.returnToCaller.sp = s.sp ∧ u.returnToCaller.fault = u.fault := by
  obtain ⟨v, index, pc, stack, sp, dt, st, fb, keys, fault, mem, draws⟩ := u
  obtain ⟨hsp, hstack⟩ := hu
  rw [State.callTo_of_free a h] at hsp hstack
  cases hsp; cases hstack
  rw [State.returnToCaller_of_occupied (Nat.succ_pos s.sp.val)]
  exact ⟨Vector.getElem_set_self h, rfl, rfl⟩

/-- Settles O28: between the push and the pop stand a tick and an advance, which leave the stack alone. -/
theorem callThenReturnComesBack : Obligations.CallThenReturnComesBack := by
  intro s t nnn hr hsp hf h hret
  have hrun : (s.advance.callTo (zextAddr nnn)).fault = .running := by rw [State.callTo_of_free (s := s.advance) _ hsp]; exact hr
  obtain ⟨hpc, hspBack, hfault⟩ := State.returnToCaller_after_callTo (s := s.advance) (a := zextAddr nnn) hsp
    (u := (s.advance.callTo (zextAddr nnn)).tick.advance) ⟨by simp, by simp⟩
  rw [step_of_instr hr hf (exec_call nnn s.advance), State.commit_running hrun] at h
  cases h
  generalize s.advance.callTo (zextAddr nnn) = called at *
  rw [State.advance_fault, State.tick_fault, hrun] at hfault
  refine ⟨called.tick.advance.returnToCaller.tick, ?step, ?pc, hspBack, hfault⟩
  case step => rw [step_of_instr (s := called.tick) hrun hret (exec_ret _), State.commit_running hfault]
  case pc => rw [State.tick_pc, hpc, State.advance_pc_toNat]

theorem State.tick_of_zero {s : State} (hdt : s.dt = 0) (hst : s.st = 0) : s.tick = s := by
  obtain ⟨v, index, pc, stack, sp, dt, st, fb, keys, fault, mem, draws⟩ := s
  cases hdt; cases hst
  rfl

/-- Settles O29: the jump undoes the advance, and the tick leaves a timer at 0 there. -/
theorem selfJumpIsAFixedPoint : Obligations.SelfJumpIsAFixedPoint := by
  intro s nnn hr hf hpc hdt hst
  have hback : zextAddr nnn = s.pc := BitVec.eq_of_toNat_eq ((zextAddr_toNat nnn).trans hpc.symm)
  have hjump : exec (.jp nnn) s.advance = .next s := by rw [exec_jp, hback]; rfl
  rw [step_of_instr hr hf hjump, State.commit_running hr, State.tick_of_zero hdt hst]

/-! ## Registers and the ALU (42_alu.md) -/

/-- Settles O31: each form is one register write. -/
theorem copyAndBitwiseFormsLeaveVFAlone : Obligations.CopyAndBitwiseFormsLeaveVFAlone := by
  intro s x y
  refine ⟨⟨_, exec_ldReg x y s, s.setReg_reg_same x _, fun _ h => s.setReg_reg_ne _ h, s.setReg_eq x _⟩,
    ⟨_, exec_orReg x y s, fun b _ => ?_, fun _ h => s.setReg_reg_ne _ h, s.setReg_eq x _⟩,
    ⟨_, exec_andReg x y s, fun b _ => ?_, fun _ h => s.setReg_reg_ne _ h, s.setReg_eq x _⟩,
    ⟨_, exec_xorReg x y s, fun b _ => ?_, fun _ h => s.setReg_reg_ne _ h, s.setReg_eq x _⟩⟩
  · rw [State.setReg_reg_same, BitVec.getLsbD_or]
  · rw [State.setReg_reg_same, BitVec.getLsbD_and]
  · rw [State.setReg_reg_same, BitVec.getLsbD_xor]

section FlagThenReg

variable (s : State) (c : Bool) (x : RegIx) (b : Byte)

theorem State.setFlagThenReg_result : (s.setFlagThenReg c x b).reg x = b := by simp

theorem State.setFlagThenReg_flag {x : RegIx} (h : x ≠ VF) : (s.setFlagThenReg c x b).reg VF = flagByte c := by
  simp [Ne.symm h]

theorem State.setFlagThenReg_others {r : RegIx} (hx : r ≠ x) (hVF : r ≠ VF) : (s.setFlagThenReg c x b).reg r = s.reg r := by
  simp [hx, hVF]

end FlagThenReg

theorem flagByte_eq_ite (p : Prop) [Decidable p] : flagByte (decide p) = if p then 1 else 0 := by
  by_cases h : p <;> simp [flagByte, h]

theorem flagByte_toNat (c : Bool) : (flagByte c).toNat = c.toNat := by
  cases c <;> rfl

theorem sum9_toNat (a b : Byte) : (sum9 a b).toNat = a.toNat + b.toNat := by
  have ha := a.isLt
  have hb := b.isLt
  rw [sum9, BitVec.toNat_add, BitVec.toNat_setWidth_of_le (by decide), BitVec.toNat_setWidth_of_le (by decide)]
  omega

/-- Settles O32. -/
theorem addSetsTheCarry : Obligations.AddSetsTheCarry := by
  refine ⟨selects_of_opField_nField fun _ => rfl, fun s x y => ⟨_, exec_addReg x y s, ?sum, fun hx => ?carry,
    fun r hx hVF => s.setFlagThenReg_others _ _ _ hx hVF, rfl⟩⟩
  case sum => rw [State.setFlagThenReg_result, BitVec.toNat_setWidth, sum9_toNat]
  case carry => rw [State.setFlagThenReg_flag _ _ _ hx, carryFlag, flagByte_eq_ite, sum9_toNat]

theorem toNat_sub_byte (a b : Byte) : (a - b).toNat = (256 + a.toNat - b.toNat) % 256 := by
  have hb := b.isLt
  rw [BitVec.toNat_sub]
  omega

/-- Settles O33. -/
theorem subtractionsSetTheStrictFlag : Obligations.SubtractionsSetTheStrictFlag := by
  refine ⟨selects_of_opField_nField fun _ => rfl, selects_of_opField_nField fun _ => rfl, fun s x y =>
    ⟨⟨_, exec_subReg x y s, ?sub, fun hx => ?greater, fun r hx hVF => s.setFlagThenReg_others _ _ _ hx hVF, rfl⟩,
     ⟨_, exec_subnReg x y s, ?subn, fun hx => ?less, fun r hx hVF => s.setFlagThenReg_others _ _ _ hx hVF, rfl⟩⟩⟩
  case sub => rw [State.setFlagThenReg_result, toNat_sub_byte]
  case subn => rw [State.setFlagThenReg_result, toNat_sub_byte]
  case greater => rw [State.setFlagThenReg_flag _ _ _ hx, greaterFlag, flagByte_eq_ite]
  case less => rw [State.setFlagThenReg_flag _ _ _ hx, greaterFlag, flagByte_eq_ite]

theorem lowBitFlag_toNat (a : Byte) : (lowBitFlag a).toNat = a.toNat % 2 := by
  rw [lowBitFlag, BitVec.getLsbD, Nat.toNat_testBit, pow_zero, Nat.div_one]

theorem highBitFlag_toNat (a : Byte) : (highBitFlag a).toNat = a.toNat / 128 := by
  have ha := a.isLt
  rw [highBitFlag, BitVec.getLsbD, Nat.toNat_testBit]
  omega

/-- Settles O34. -/
theorem shiftsCaptureTheBitShiftedOut : Obligations.ShiftsCaptureTheBitShiftedOut := by
  refine ⟨selects_of_opField_nField fun _ => rfl, selects_of_opField_nField fun _ => rfl, fun s x =>
    ⟨⟨_, exec_shr x s, ?half, fun hx => ?lowBit, fun r hx hVF => s.setFlagThenReg_others _ _ _ hx hVF, rfl⟩,
     ⟨_, exec_shl x s, ?double, fun hx => ?highBit, fun r hx hVF => s.setFlagThenReg_others _ _ _ hx hVF, rfl⟩⟩⟩
  case half => rw [State.setFlagThenReg_result, BitVec.toNat_ushiftRight, Nat.shiftRight_eq_div_pow]
  case double => rw [State.setFlagThenReg_result, BitVec.toNat_shiftLeft, Nat.shiftLeft_eq, Nat.mul_comm]
  case lowBit => rw [State.setFlagThenReg_flag _ _ _ hx, flagByte_toNat, lowBitFlag_toNat]
  case highBit => rw [State.setFlagThenReg_flag _ _ _ hx, flagByte_toNat, highBitFlag_toNat]

/-- Settles O35: a bit of the conjunction is set in both its operands. -/
theorem randomByteIsMasked : Obligations.RandomByteIsMasked := by
  refine fun s x kk => ⟨_, exec_rnd x kk s, s.setReg_reg_same x _, fun b _ hb => ?_, rfl, fun _ h => s.setReg_reg_ne _ h, rfl⟩
  rw [State.consumeDraw_reg, State.setReg_reg_same, BitVec.getLsbD_and, hb, Bool.and_false]

/-! ## The index register, the keypad and the timers (43_index_memory.md, 45_keypad_timers.md) -/

/-- Settles O36. -/
theorem loadIndexSetsI : Obligations.LoadIndexSetsI :=
  ⟨selects_of_opField fun _ => rfl, fun s nnn => ⟨_, exec_ldI nnn s, zextAddr_toNat nnn, rfl⟩⟩

/-- Settles O37: both sums are 16-bit ones, and the second cannot reach 65536. -/
theorem addIndexAndGlyphAddress : Obligations.AddIndexAndGlyphAddress := by
  refine fun s x => ⟨⟨_, exec_addIVx x s, ?sum, rfl⟩, ⟨_, exec_ldFVx x s, ?glyph, rfl⟩⟩
  case sum => rw [State.setIndex_index, BitVec.toNat_add, zextByte_toNat]
  case glyph =>
    have hx := (s.reg x).isLt
    rw [State.setIndex_index, BitVec.toNat_add, BitVec.toNat_mul, zextByte_toNat]
    show (0x50 + 5 * (s.reg x).toNat % 2 ^ 16) % 2 ^ 16 = 0x50 + 5 * (s.reg x).toNat
    omega

theorem State.pressed_iff (s : State) (v : Byte) : s.pressed v = true ↔ v.toNat ≤ 15 ∧ s.keys.getLsbD v.toNat = true := by
  rw [State.pressed, State.key, Bool.and_eq_true, decide_eq_true_iff]

/-- Settles O46. -/
theorem keySkipsTestTheNamedKey : Obligations.KeySkipsTestTheNamedKey := by
  refine fun s x => ⟨⟨_, exec_skp x s, s.skipIf_eq _, s.skipIf_pc_toNat (s.pressed_iff _)⟩,
    ⟨_, exec_sknp x s, s.skipIf_eq _, s.skipIf_pc_toNat_of_not ?_⟩⟩
  rw [Bool.not_eq_true', ← Bool.not_eq_true, s.pressed_iff]

/-- Settles O47: the key scan finds the least pressed key, and there is one least. -/
theorem waitForKeyTakesTheLeastKeyOrRewinds : Obligations.WaitForKeyTakesTheLeastKeyOrRewinds := by
  intro s x
  obtain ⟨k', hk', hpressed, hleast, hscan⟩ | ⟨hnone, hscan⟩ := s.lowestKey_cases
  case inl =>
    refine ⟨fun k hk hkey hbelow => ?_, fun hnone => ?_⟩
    · obtain rfl : k = k' := by
        rcases Nat.lt_trichotomy k k' with hlt | heq | hgt
        · exact absurd ((hleast k hlt).symm.trans hkey) (by decide)
        · exact heq
        · exact absurd ((hbelow k' hgt).symm.trans hpressed) (by decide)
      refine ⟨_, exec_ldVxK_of_some x hscan, ?_, fun _ h => s.setReg_reg_ne _ h, s.setReg_eq x _⟩
      rw [State.setReg_reg_same, BitVec.toNat_ofNat]
      omega
    · exact absurd ((hnone k' hk').symm.trans hpressed) (by decide)
  case inr =>
    refine ⟨fun k hk hkey _ => absurd ((hnone k hk).symm.trans hkey) (by decide), fun _ => ?_⟩
    refine ⟨_, exec_ldVxK_of_none x hscan, ?_, rfl⟩
    rw [State.setPc_pc, BitVec.toNat_sub]
    show (65534 + s.pc.toNat) % 65536 = _
    omega

/-- Settles O48: the wait takes back the advance. -/
theorem waitingStepKeepsThePc : Obligations.WaitingStepKeepsThePc := by
  intro s x hr hf hnone
  have hscan : s.advance.lowestKey = none := by
    obtain ⟨k, hk, hpressed, -⟩ | ⟨-, hscan⟩ := s.advance.lowestKey_cases
    · exact absurd ((hnone k hk).symm.trans hpressed) (by decide)
    · exact hscan
  have hx : exec (.ldVxK x) s.advance = .next s := by
    rw [exec_ldVxK_of_none x hscan, State.advance_pc, BitVec.add_sub_cancel]; rfl
  exact ⟨s.tick, (step_of_instr hr hf hx).trans (congrArg _ (State.commit_running hr)), tickDown_toNat _, tickDown_toNat _, rfl⟩

/-- Settles O49. -/
theorem timerCopiesMoveOneByte : Obligations.TimerCopiesMoveOneByte :=
  fun s x => ⟨⟨_, exec_ldVxDT x s, s.setReg_reg_same x _, fun _ h => s.setReg_reg_ne _ h, s.setReg_eq x _⟩,
    ⟨_, exec_ldDTVx x s, rfl, rfl⟩, ⟨_, exec_ldSTVx x s, rfl, rfl⟩⟩

end Sys2Proof.Machine

namespace Sys2Proof.Machine

/-! ## Stores and loads (43_index_memory.md) -/

/-- A row of mask F0FF: the dispatch sees of `value` its high nibble and its low byte, so the arm of these two answers. -/
theorem selects_of_opField_kkField {value : Word} {f : Word → Instr}
    (h : ∀ w, decodeFields (opField value) (xField w) (yField w) (nField w) (kkField value) (nnnField w) = some (f w)) :
    Selects 0xF0FF#16 value f := by
  intro w hw
  have hop : opField w = opField value := opField_of_selected hw (by decide)
  have hkk : kkField w = kkField value := kkField_of_selected hw (by decide)
  exact decodeWord_of_decodeFields (hop ▸ hkk ▸ h w)

theorem State.storeDigits_memRead (s : State) (d : Byte × Byte × Byte) (a : Nat) : (s.storeDigits d).memRead a =
    if a % 4096 = (s.index.toNat + 2) % 4096 then d.2.2 else if a % 4096 = (s.index.toNat + 1) % 4096 then d.2.1
    else if a % 4096 = s.index.toNat % 4096 then d.1 else s.memRead a := by
  simp only [State.storeDigits, State.memRead_memWrite, State.ea, Nat.add_zero]

theorem bcdDigits_toNat (b : Byte) : (bcdDigits b).1.toNat = b.toNat / 100 ∧ (bcdDigits b).2.1.toNat = b.toNat / 10 % 10 ∧
    (bcdDigits b).2.2.toNat = b.toNat % 10 := by
  have hb := b.isLt
  refine ⟨Nat.mod_eq_of_lt ?_, Nat.mod_eq_of_lt ?_, Nat.mod_eq_of_lt ?_⟩ <;> omega

/-- Settles O38: the three addresses are distinct, so the order of the stores does not show. -/
theorem decimalDigitsAreStoredAtI : Obligations.DecimalDigitsAreStoredAtI := by
  refine ⟨selects_of_opField_kkField fun _ => rfl, fun s x => ⟨_, exec_ldBVx x s, s.storeDigits_eq _, fun a => ?_⟩⟩
  obtain ⟨hhundreds, htens, hones⟩ := bcdDigits_toNat (s.reg x)
  rw [State.storeDigits_memRead]
  split_ifs <;> omega

theorem State.storeRegs_memRead_reg (s : State) {x r : RegIx} (h : r.toNat ≤ x.toNat) :
    (s.storeRegs (x.toNat + 1)).memRead (s.index.toNat + r.toNat) = s.reg r := by
  have hx := x.isLt
  rw [← State.ea, State.storeRegs_memRead s _ _ (by omega) (by omega), BitVec.ofNat_toNat, BitVec.setWidth_eq]

theorem State.storeRegs_memRead_off (s : State) {x : RegIx} {a : Nat}
    (h : ∀ r : RegIx, r.toNat ≤ x.toNat → a % 4096 ≠ (s.index.toNat + r.toNat) % 4096) :
    (s.storeRegs (x.toNat + 1)).memRead a = s.memRead a := by
  refine s.storeRegs_memRead_ne _ _ fun k hk => ?_
  have hx := x.isLt
  have hk' : (BitVec.ofNat 4 k).toNat = k := Nat.mod_eq_of_lt (by omega)
  have hne := h (BitVec.ofNat 4 k) (by omega)
  rwa [hk'] at hne

/-- Settles O39. -/
theorem registersAreStoredFromI : Obligations.RegistersAreStoredFromI :=
  ⟨selects_of_opField_kkField fun _ => rfl, fun s x => ⟨_, exec_ldMemVx x s, s.storeRegs_eq _,
    fun _ hr => s.storeRegs_memRead_reg hr, fun _ ha => s.storeRegs_memRead_off ha⟩⟩

theorem State.loadRegs_reg_le (s : State) (x r : RegIx) : (s.loadRegs (x.toNat + 1)).reg r =
    if r.toNat ≤ x.toNat then s.memRead (s.index.toNat + r.toNat) else s.reg r := by
  have hx := x.isLt
  rw [s.loadRegs_reg _ (by omega)]
  exact if_congr Nat.lt_succ_iff rfl rfl

/-- Settles O40. -/
theorem registersAreLoadedFromI : Obligations.RegistersAreLoadedFromI :=
  ⟨selects_of_opField_kkField fun _ => rfl, fun s x => ⟨_, exec_ldVxMem x s, s.loadRegs_eq _, s.loadRegs_reg_le x⟩⟩

theorem State.memRead_congr (s : State) {a a' : Nat} (h : a % 4096 = a' % 4096) : s.memRead a = s.memRead a' := by
  rw [State.memRead, State.memRead, translate_eq, translate_eq, h]

/-- Storing what a load brought writes every byte with its own value. -/
theorem State.storeRegs_loadRegs_memRead (s : State) (x : RegIx) (a : Nat) :
    ((s.loadRegs (x.toNat + 1)).storeRegs (x.toNat + 1)).memRead a = s.memRead a := by
  by_cases ha : ∃ r : RegIx, r.toNat ≤ x.toNat ∧ a % 4096 = (s.index.toNat + r.toNat) % 4096
  · obtain ⟨r, hr, ha⟩ := ha
    have hstored := State.storeRegs_memRead_reg (s.loadRegs (x.toNat + 1)) hr
    rw [State.loadRegs_index, State.loadRegs_reg_le, if_pos hr] at hstored
    rw [State.memRead_congr _ ha, hstored, State.memRead_congr _ ha]
  · rw [State.storeRegs_memRead_off, State.loadRegs_memRead]
    exact fun r hr e => ha ⟨r, hr, by rwa [State.loadRegs_index] at e⟩

/-- Loading what a store left writes every register with its own value. -/
theorem State.loadRegs_storeRegs_reg (s : State) (x r : RegIx) :
    ((s.storeRegs (x.toNat + 1)).loadRegs (x.toNat + 1)).reg r = s.reg r := by
  rw [State.loadRegs_reg_le, State.storeRegs_index, State.storeRegs_reg]
  split
  · exact s.storeRegs_memRead_reg ‹_›
  · rfl

/-- Settles O41. -/
theorem storeAndLoadAreInverse : Obligations.StoreAndLoadAreInverse := by
  intro s t u x
  refine ⟨fun h h' => ?storeLoad, fun h h' => ?loadStore⟩
  case storeLoad =>
    rw [exec_ldMemVx] at h; cases h
    rw [exec_ldVxMem] at h'; cases h'
    exact ⟨s.loadRegs_storeRegs_reg x, fun r hr => (State.loadRegs_memRead ..).trans (s.storeRegs_memRead_reg hr)⟩
  case loadStore =>
    rw [exec_ldVxMem] at h; cases h
    rw [exec_ldMemVx] at h'; cases h'
    exact s.storeRegs_loadRegs_memRead x

/-! ## A store is seen by the next fetch (20_memory.md R61) -/

theorem State.fetchWord_hi (s : State) : s.fetchWord.toNat / 256 = (s.memRead s.pc.toNat).toNat := by
  have hlo := (s.mem.read ((s.pc.toNat + 1) % 4096)).isLt
  rw [fetchIsBigEndianAndWraps s, State.memRead, translate_eq]
  omega

theorem State.fetchWord_lo (s : State) : s.fetchWord.toNat % 256 = (s.memRead (s.pc.toNat + 1)).toNat := by
  have hlo := (s.mem.read ((s.pc.toNat + 1) % 4096)).isLt
  rw [fetchIsBigEndianAndWraps s, State.memRead, translate_eq]
  omega

/-- After a step that left the pc advanced, the two bytes fetched next are those at the old pc + 2 and + 3. -/
theorem fetchWord_of_memRead {s u : State} {a : Nat} {b : Byte} (hpc : u.pc = s.pc + 2) (hb : u.memRead a = b) :
    ((s.pc.toNat + 2) % 4096 = a % 4096 → u.fetchWord.toNat / 256 = b.toNat) ∧
    ((s.pc.toNat + 3) % 4096 = a % 4096 → u.fetchWord.toNat % 256 = b.toNat) := by
  have hnat : u.pc.toNat = (s.pc.toNat + 2) % 65536 := by rw [hpc]; exact BitVec.toNat_add s.pc 2
  constructor
  · intro ha
    rw [u.fetchWord_hi, u.memRead_congr (a' := a) (by omega), hb]
  · intro ha
    rw [u.fetchWord_lo, u.memRead_congr (a' := a) (by omega), hb]

/-- The digits by their place: digit `k` is `b / 10 ^ (2 - k) % 10`. -/
theorem State.storeDigits_memRead_digit (s : State) (b : Byte) {k : Nat} (hk : k < 3) :
    ((s.storeDigits (bcdDigits b)).memRead (s.index.toNat + k)).toNat = b.toNat / 10 ^ (2 - k) % 10 := by
  have hb := b.isLt
  obtain ⟨hhundreds, htens, hones⟩ := bcdDigits_toNat b
  rw [State.storeDigits_memRead]
  obtain rfl | rfl | rfl : k = 0 ∨ k = 1 ∨ k = 2 := by omega
  · rw [if_neg (by omega), if_neg (by omega), if_pos (by omega), hhundreds]
    omega
  · rw [if_neg (by omega), if_pos rfl, htens]
    omega
  · rw [if_pos rfl, hones]
    omega

/-- Settles O42. -/
theorem storeIsSeenByTheNextFetch : Obligations.StoreIsSeenByTheNextFetch := by
  intro s t x hr h
  refine ⟨fun hf r hle => ?registers, fun hf k hk => ?digits⟩
  case registers =>
    have hfault : (s.advance.storeRegs (x.toNat + 1)).fault = .running := by rw [State.storeRegs_fault]; exact hr
    rw [step_of_instr hr hf (exec_ldMemVx x s.advance), State.commit_running hfault] at h
    cases h
    exact fetchWord_of_memRead (by simp) (s.advance.storeRegs_memRead_reg hle)
  case digits =>
    rw [step_of_instr hr hf (exec_ldBVx x s.advance), State.commit_running (by exact hr)] at h
    cases h
    rw [← s.advance.storeDigits_memRead_digit (s.reg x) hk]
    exact fetchWord_of_memRead rfl rfl

end Sys2Proof.Machine

namespace Sys2Proof.Machine

/-! ## Frames: what an instruction leaves alone -/

/-- Settles O53: each of the forms is a write of Vx. -/
theorem frameOfRegisterForms : Obligations.FrameOfRegisterForms := by
  intro s t x y kk h
  obtain ⟨b, rfl⟩ : ∃ b, t = s.setReg x b := by
    rcases h with h | h | h | h | h | h | h <;> cases h <;> exact ⟨_, rfl⟩
  exact ⟨fun _ hr => s.setReg_reg_ne b hr, rfl, rfl, ⟨rfl, rfl⟩, ⟨rfl, rfl⟩, rfl, rfl, ⟨rfl, rfl⟩, fun _ => rfl⟩

/-- Settles O54: LD Vx,K is a write of Vx with a key pressed, and one of the pc with none. -/
theorem frameOfInputForms : Obligations.FrameOfInputForms := by
  intro s t x kk
  refine ⟨fun h => ?rnd, fun h => ?ldVxK⟩
  case rnd =>
    rw [exec_rnd] at h; cases h
    exact ⟨fun _ hr => s.setReg_reg_ne _ hr, rfl, rfl, ⟨rfl, rfl⟩, ⟨rfl, rfl⟩, rfl, rfl, rfl, rfl, fun _ => rfl⟩
  case ldVxK =>
    obtain ⟨k, -, -, -, hk⟩ | ⟨-, hk⟩ := s.lowestKey_cases
    · rw [exec_ldVxK_of_some x hk] at h; cases h
      exact ⟨fun _ hr => s.setReg_reg_ne _ hr, rfl, .inl rfl, ⟨rfl, rfl⟩, ⟨rfl, rfl⟩, rfl, rfl, ⟨rfl, rfl⟩, fun _ => rfl⟩
    · rw [exec_ldVxK_of_none x hk] at h; cases h
      exact ⟨fun _ _ => rfl, rfl, .inr fun _ => rfl, ⟨rfl, rfl⟩, ⟨rfl, rfl⟩, rfl, rfl, ⟨rfl, rfl⟩, fun _ => rfl⟩

/-- Settles O55: each of the forms is a write of VF and then of Vx. -/
theorem frameOfFlagForms : Obligations.FrameOfFlagForms := by
  intro s t x y h
  obtain ⟨c, b, rfl⟩ : ∃ c b, t = s.setFlagThenReg c x b := by
    rcases h with h | h | h | h | h <;> cases h <;> exact ⟨_, _, rfl⟩
  exact ⟨fun _ hx hVF => s.setFlagThenReg_others c x b hx hVF, rfl, rfl, ⟨rfl, rfl⟩, ⟨rfl, rfl⟩,
    rfl, rfl, ⟨rfl, rfl⟩, fun _ => rfl⟩

/-- Settles O56: each of the forms is a write of the pc. -/
theorem frameOfJumpsAndSkips : Obligations.FrameOfJumpsAndSkips := by
  intro s t x y kk nnn h
  obtain ⟨a, rfl⟩ : ∃ a, t = s.setPc a := by
    rcases h with h | h | h | h | h | h | h | h <;> cases h
    case inl | inr.inl => exact ⟨_, rfl⟩
    all_goals exact s.skipIf_eq_setPc _
  exact ⟨fun _ => rfl, rfl, ⟨rfl, rfl⟩, ⟨rfl, rfl⟩, rfl, rfl, ⟨rfl, rfl⟩, fun _ => rfl⟩

theorem State.callTo_stack_other (s : State) (a : Word) (k : Fin 16) (hk : k.val ≠ s.sp.val) :
    (s.callTo a).stack[k] = s.stack[k] := by
  obtain ⟨hfree, hpush⟩ | ⟨-, hraise⟩ := s.callTo_cases a
  · rw [hpush]; exact Vector.getElem_set_ne hfree k.isLt (Ne.symm hk)
  · rw [hraise]; rfl

/-- Settles O57. -/
theorem frameOfCallAndReturn : Obligations.FrameOfCallAndReturn := by
  intro s t nnn
  refine ⟨fun h => ?call, fun h => ?ret⟩
  case call =>
    rw [exec_call] at h; cases h
    exact ⟨s.callTo_reg _, s.callTo_index _, ⟨s.callTo_dt _, s.callTo_st _⟩, s.callTo_fb _, ⟨s.callTo_keys _, s.callTo_draws _⟩,
      s.callTo_memRead _, s.callTo_stack_other _⟩
  case ret =>
    rw [exec_ret] at h; cases h
    exact ⟨s.returnToCaller_reg, s.returnToCaller_index, ⟨s.returnToCaller_dt, s.returnToCaller_st⟩, s.returnToCaller_fb,
      ⟨s.returnToCaller_keys, s.returnToCaller_draws⟩, s.returnToCaller_memRead, s.returnToCaller_stack⟩

/-- Settles O58: three writes of I, one of DT, one of ST. -/
theorem frameOfIndexAndTimerForms : Obligations.FrameOfIndexAndTimerForms := by
  intro s t x nnn
  refine ⟨fun h => ?index, fun h => ?delay, fun h => ?sound⟩
  case index =>
    obtain ⟨a, rfl⟩ : ∃ a, t = s.setIndex a := by
      rcases h with h | h | h <;> cases h <;> exact ⟨_, rfl⟩
    exact ⟨rfl, ⟨rfl, rfl⟩, fun _ => rfl, ⟨rfl, rfl⟩, rfl, rfl, ⟨rfl, rfl⟩, fun _ => rfl⟩
  case delay =>
    rw [exec_ldDTVx] at h; cases h
    exact ⟨rfl, rfl, rfl, fun _ => rfl, ⟨rfl, rfl⟩, rfl, rfl, ⟨rfl, rfl⟩, fun _ => rfl⟩
  case sound =>
    rw [exec_ldSTVx] at h; cases h
    exact ⟨rfl, rfl, rfl, fun _ => rfl, ⟨rfl, rfl⟩, rfl, rfl, ⟨rfl, rfl⟩, fun _ => rfl⟩

theorem State.storeDigits_memRead_ne (s : State) (d : Byte × Byte × Byte) {a : Nat} (h : ∀ k < 3, translate a ≠ translate (s.ea k)) :
    (s.storeDigits d).memRead a = s.memRead a := by
  have hne : ∀ k < 3, a % 4096 ≠ s.ea k % 4096 := h
  simp only [State.storeDigits, State.memRead_memWrite]
  rw [if_neg (hne 2 (by decide)), if_neg (hne 1 (by decide)), if_neg (hne 0 (by decide))]

/-- Settles O59. -/
theorem frameOfStores : Obligations.FrameOfStores := by
  intro s t x
  refine ⟨fun h => ?digits, fun h => ?registers⟩
  case digits =>
    rw [exec_ldBVx] at h; cases h
    exact ⟨s.storeDigits_reg _, s.storeDigits_index _, s.storeDigits_pc _, ⟨s.storeDigits_sp _, s.storeDigits_stack _⟩,
      ⟨s.storeDigits_dt _, s.storeDigits_st _⟩, s.storeDigits_fb _, s.storeDigits_fault _,
      ⟨s.storeDigits_keys _, s.storeDigits_draws _⟩, fun _ ha => s.storeDigits_memRead_ne _ ha⟩
  case registers =>
    rw [exec_ldMemVx] at h; cases h
    exact ⟨s.storeRegs_reg _, s.storeRegs_index _, s.storeRegs_pc _, ⟨s.storeRegs_sp _, s.storeRegs_stack _⟩,
      ⟨s.storeRegs_dt _, s.storeRegs_st _⟩, s.storeRegs_fb _, s.storeRegs_fault _, ⟨s.storeRegs_keys _, s.storeRegs_draws _⟩,
      fun a ha => s.storeRegs_memRead_ne _ a ha⟩

/-- Settles O60. -/
theorem frameOfLoadAndDisplayForms : Obligations.FrameOfLoadAndDisplayForms := by
  intro s t x y n
  refine ⟨fun h => ?load, fun h => ?clear, fun h => ?draw⟩
  case load =>
    rw [exec_ldVxMem] at h; cases h
    exact ⟨fun r hr => by rw [State.loadRegs_reg_le, if_neg (Nat.not_le.2 hr)], s.loadRegs_fb _, s.loadRegs_index _, s.loadRegs_pc _,
      ⟨s.loadRegs_sp _, s.loadRegs_stack _⟩, ⟨s.loadRegs_dt _, s.loadRegs_st _⟩, s.loadRegs_fault _,
      ⟨s.loadRegs_keys _, s.loadRegs_draws _⟩, s.loadRegs_memRead _⟩
  case clear =>
    rw [exec_cls] at h; cases h
    exact ⟨fun _ => rfl, rfl, rfl, ⟨rfl, rfl⟩, ⟨rfl, rfl⟩, rfl, ⟨rfl, rfl⟩, fun _ => rfl⟩
  case draw =>
    rw [exec_drw] at h; cases h
    exact ⟨fun _ hr => State.setReg_reg_ne _ _ hr, rfl, rfl, ⟨rfl, rfl⟩, ⟨rfl, rfl⟩, rfl, ⟨rfl, rfl⟩, fun _ => rfl⟩

end Sys2Proof.Machine

namespace Sys2Proof.Machine

/-! ## DRW, row by row (44_display.md R201, R202) -/

theorem State.spriteBit_zero (s : State) (x0 y0 px py : Nat) : s.spriteBit x0 y0 0 px py = false := by
  rw [State.spriteBit, decide_eq_false (by omega), Bool.false_and]

theorem State.spriteBit_below (s : State) (x0 y0 n px : Nat) : s.spriteBit x0 y0 n px (y0 + n) = false := by
  simp [State.spriteBit]

/-- The sprite with one more row: its bits are those of the rows before, and on the new row's line those of its byte. -/
theorem State.spriteBit_succ (s : State) (x0 y0 n px py : Nat) : s.spriteBit x0 y0 (n + 1) px py =
    (s.spriteBit x0 y0 n px py ^^
      (decide (x0 ≤ px ∧ px < x0 + 8 ∧ py = y0 + n) && (s.memRead (s.ea n)).getLsbD (7 - (px - x0)))) := by
  by_cases hrow : py = y0 + n
  · subst hrow
    rw [State.spriteBit_below, Bool.false_xor]
    simp [State.spriteBit, State.ea]
  · have hrange : (x0 ≤ px ∧ px < x0 + 8 ∧ y0 ≤ py ∧ py < y0 + (n + 1)) ↔
        (x0 ≤ px ∧ px < x0 + 8 ∧ y0 ≤ py ∧ py < y0 + n) := by omega
    simp [State.spriteBit, hrange, hrow]

theorem State.spriteBit_succ_of_before (s : State) {x0 y0 n px py : Nat} (h : s.spriteBit x0 y0 n px py = true) :
    s.spriteBit x0 y0 (n + 1) px py = true := by
  have hrow : py ≠ y0 + n := by rintro rfl; rw [State.spriteBit_below] at h; cases h
  rw [State.spriteBit_succ, h, decide_eq_false fun e => hrow e.2.2, Bool.false_and, Bool.xor_false]

theorem State.spriteBit_succ_of_row (s : State) (x0 y0 n : Nat) {c : Nat} (hc : c < 8) :
    s.spriteBit x0 y0 (n + 1) (x0 + c) (y0 + n) = (s.memRead (s.ea n)).getLsbD (7 - c) := by
  rw [State.spriteBit_succ, State.spriteBit_below, Bool.false_xor, decide_eq_true (by omega), Bool.true_and, Nat.add_sub_cancel_left]

theorem State.spriteBit_succ_cases (s : State) {x0 y0 n px py : Nat} (h : s.spriteBit x0 y0 (n + 1) px py = true) :
    s.spriteBit x0 y0 n px py = true ∨ ∃ c < 8, px = x0 + c ∧ py = y0 + n := by
  rw [State.spriteBit_succ] at h
  by_cases hrow : x0 ≤ px ∧ px < x0 + 8 ∧ py = y0 + n
  · obtain ⟨hleft, hright, hline⟩ := hrow
    exact .inr ⟨px - x0, by omega, by omega, hline⟩
  · rw [decide_eq_false hrow, Bool.false_and, Bool.xor_false] at h
    exact .inl h

/-- The display after the first `n` rows. -/
theorem State.blitRows_pixel (s : State) (x0 y0 n : Nat) {px py : Nat} (hx : px ≤ 63) (hy : py ≤ 31) :
    (s.blitRows x0 y0 n).1.pixel px py = (s.fb.pixel px py ^^ s.spriteBit x0 y0 n px py) := by
  induction n with
  | zero => rw [State.blitRows, State.spriteBit_zero, Bool.xor_false]
  | succ r ih => rw [State.blitRows, blitRow_pixel _ _ _ _ _ hx hy, ih, State.spriteBit_succ, Bool.xor_assoc]

/-- The flag after the first `n` rows: each row finds the pixels on its line as they were before the draw. -/
theorem State.blitRows_collision (s : State) (x0 y0 n : Nat) : (s.blitRows x0 y0 n).2 = true ↔
    ∃ px ≤ 63, ∃ py ≤ 31, s.fb.pixel px py = true ∧ s.spriteBit x0 y0 n px py = true := by
  induction n with
  | zero => simp [State.blitRows, State.spriteBit_zero]
  | succ r ih =>
    have hline : ∀ {px : Nat}, px ≤ 63 → y0 + r ≤ 31 → (s.blitRows x0 y0 r).1.pixel px (y0 + r) = s.fb.pixel px (y0 + r) :=
      fun hx hy => by rw [s.blitRows_pixel _ _ _ hx hy, State.spriteBit_below, Bool.xor_false]
    rw [State.blitRows, blitRow_collision, ih]
    constructor
    · rintro (⟨px, hx, py, hy, hset, hbit⟩ | ⟨c, hc, hbit, hx, hy, hset⟩)
      · exact ⟨px, hx, py, hy, hset, s.spriteBit_succ_of_before hbit⟩
      · exact ⟨x0 + c, hx, y0 + r, hy, (hline hx hy).symm.trans hset, (s.spriteBit_succ_of_row _ _ _ hc).trans hbit⟩
    · rintro ⟨px, hx, py, hy, hset, hbit⟩
      rcases s.spriteBit_succ_cases hbit with hbefore | ⟨c, hc, rfl, rfl⟩
      · exact .inl ⟨px, hx, py, hy, hset, hbefore⟩
      · exact .inr ⟨c, hc, (s.spriteBit_succ_of_row _ _ _ hc).symm.trans hbit, hx, hy, (hline hx hy).trans hset⟩

theorem flagByte_eq_one_iff (c : Bool) : flagByte c = 1 ↔ c = true := by
  cases c <;> decide

theorem flagByte_cases (c : Bool) : flagByte c = 0 ∨ flagByte c = 1 := by
  cases c <;> decide

/-- Settles O44: the display and the flag of all the rows of the sprite. -/
theorem drawIsPixelwiseXorWithClipping : Obligations.DrawIsPixelwiseXorWithClipping := by
  refine fun s x y n => ⟨_, exec_drw x y n s, fun px hx py hy => s.blitRows_pixel _ _ _ hx hy, ?value, ?collision,
    fun _ hr => State.setReg_reg_ne _ _ hr, rfl⟩
  case value => rw [State.setReg_reg_same]; exact flagByte_cases _
  case collision => rw [State.setReg_reg_same, flagByte_eq_one_iff, State.blitRows_collision]

theorem Framebuffer.eq_of_pixel_eq {f g : Framebuffer} (h : ∀ px ≤ 63, ∀ py ≤ 31, f.pixel px py = g.pixel px py) : f = g := by
  refine BitVec.eq_of_getLsbD_eq fun i hi => ?_
  have hpixel := h (i % 64) (by omega) (i / 64) (by omega)
  rwa [Framebuffer.pixel, Framebuffer.pixel, Nat.div_add_mod] at hpixel

/-- Settles O45: between the draws the sprite and its place stay, so the second draw is the XOR with the same bits. -/
theorem drawingTwiceRestoresTheDisplay : Obligations.DrawingTwiceRestoresTheDisplay := by
  intro s t u x y n hxVF hyVF h h'
  obtain ⟨t₁, ht, hfirst, -, -, hothers, htEq⟩ := drawIsPixelwiseXorWithClipping s x y n
  cases h.symm.trans ht
  obtain ⟨u₁, hu, hsecond, -, hflag, -⟩ := drawIsPixelwiseXorWithClipping t x y n
  cases h'.symm.trans hu
  have hsprite : ∀ x0 y0 rows px py, t.spriteBit x0 y0 rows px py = s.spriteBit x0 y0 rows px py := by
    rw [htEq]; exact fun _ _ _ _ _ => rfl
  rw [hothers x hxVF, hothers y hyVF] at hsecond hflag
  refine ⟨Framebuffer.eq_of_pixel_eq fun px hx py hy => ?restored, hflag.trans ?collision⟩
  case restored => rw [hsecond px hx py hy, hfirst px hx py hy, hsprite, Bool.xor_assoc, Bool.xor_self, Bool.xor_false]
  case collision =>
    refine exists_congr fun px => and_congr_right fun hx => exists_congr fun py => and_congr_right fun hy => ?_
    rw [hsprite, hfirst px hx py hy]
    cases s.spriteBit ((s.reg x).toNat % 64) ((s.reg y).toNat % 32) n.toNat px py <;> simp

end Sys2Proof.Machine

namespace Sys2Proof.Machine

/-! ## Reset (10_state.md R36, 20_memory.md R63) -/

theorem State.resetWith_memRead (font : FontTable) {a : Nat} (ha : a < 4096) : (State.resetWith font).memRead a =
    if 0x50 ≤ a ∧ a < 0xA0 then font.toList.getD (a - 0x50) 0 else resetByte a := by
  have hlen : font.toList.length = 80 := font.length_toList
  rw [State.resetWith, State.storeBytes_memRead _ _ _ (by rw [hlen]; decide) ha, hlen]
  exact if_congr Iff.rfl rfl (congrArg resetByte (Nat.mod_eq_of_lt ha))

/-- With the default table every byte is what an unlisted one reads as, so the canonical memory lists none. -/
theorem State.resetWith_defaultFont : State.resetWith defaultFont = State.reset := by
  have hread : ∀ a < 4096, (State.resetWith defaultFont).mem.read a = Memory.read [] a := fun a ha => by
    have hmem : (State.resetWith defaultFont).mem.read a = (State.resetWith defaultFont).memRead a := by
      rw [State.memRead, translate_eq, Nat.mod_eq_of_lt ha]
    rw [hmem, State.resetWith_memRead _ ha, Memory.read]
    split
    · rw [resetByte_eq, if_pos ‹_›]; rfl
    · rfl
  rw [State.resetWith_eq, Memory.eq_of_read_eq (State.wf_resetWith _) reset_mem_wf hread]

/-- Settles O21. -/
theorem resetLeavesTheListedValues : Obligations.ResetLeavesTheListedValues := by
  refine ⟨State.resetWith_defaultFont.symm, ?_⟩
  rintro font s rfl
  have hreset := State.resetWith_eq font
  refine ⟨fun r => ?reg, ?_, ?_, ?_, fun k => ?slot, ?_, ?_, fun x y => ?pixel, ?_, fun a ha hfont => ?outside, fun k => ?inside⟩
  case reg => rw [hreset]; exact Vector.getElem_replicate r.isLt
  case slot => rw [hreset]; exact Vector.getElem_replicate k.isLt
  case pixel => rw [hreset]; exact Framebuffer.pixel_zero x y
  case outside => rw [State.resetWith_memRead _ ha, if_neg hfont, resetByte_eq, if_neg hfont]
  case inside =>
    have hk := k.isLt
    rw [State.resetWith_memRead _ (by omega), if_pos (by omega), Nat.add_sub_cancel_left,
      List.getD_eq_getElem _ _ (by rw [Vector.length_toList]; exact hk), Vector.getElem_toList]
    rfl
  all_goals rw [hreset]; rfl

/-! ## The host's moves (10_state.md R27, R35, 20_memory.md R62) -/

theorem State.hostSetKey_getLsbD (s : State) (k j : Fin 16) (pressed : Bool) :
    (s.hostSetKey k pressed).keys.getLsbD j.val = if j = k then pressed else s.keys.getLsbD j.val := by
  have hj : j.val < 16 := j.isLt
  by_cases h : j = k <;> cases pressed <;> simp [State.hostSetKey, hj, h, Fin.val_inj]

/-- Settles O22. -/
theorem hostResetKeyWriteAndPorts : Obligations.HostResetKeyWriteAndPorts := by
  intro s
  refine ⟨fun _ => rfl, fun k pressed => ⟨_, rfl, rfl, ?written, fun j hj => ?others⟩, fun _ _ _ _ => rfl, ?_, ?_, ?_⟩
  case written => rw [State.hostSetKey_getLsbD, if_pos rfl]
  case others => rw [State.hostSetKey_getLsbD, if_neg hj]
  all_goals intro h; rw [State.faultPort, h]; rfl

/-- A row of writes on the `load` port from the image's region up is one store of bytes, while it stays below 4096. -/
theorem State.loadPortRow_eq (s : State) (addr : Addr) (image : List Byte) (hbase : 0x200 ≤ addr.toNat)
    (hend : addr.toNat + image.length ≤ 4096) : s.loadPortRow addr image = .loaded (s.storeBytes addr.toNat image) := by
  induction image generalizing s addr with
  | nil => rfl
  | cons b rest ih =>
    have hport : s.loadPort addr b = .loaded (s.memWrite addr.toNat b) := if_pos hbase
    rw [State.loadPortRow, hport, State.storeBytes]
    cases rest with
    | nil => rfl
    | cons c rest =>
      simp only [List.length_cons] at hend
      have hnext : (addr + 1).toNat = addr.toNat + 1 := by
        rw [BitVec.toNat_add]; exact Nat.mod_eq_of_lt (show addr.toNat + 1 < 4096 by omega)
      rw [← hnext]
      exact ih _ _ (by omega) (by simp only [List.length_cons]; omega)

/-- Settles O23. -/
theorem hostLoadWritesExactlyTheImage : Obligations.HostLoadWritesExactlyTheImage := by
  intro s image
  refine ⟨fun hl => ?image, State.hostLoad_of_too_long, fun addr data => ⟨fun hbase => ?port, fun hlow => ?below⟩, fun hl => ?row⟩
  case image =>
    exact ⟨_, State.hostLoad_of_fits hl, s.storeBytes_eq _ _, fun a ha => s.storeBytes_memRead _ _ (by omega) ha⟩
  case port =>
    refine ⟨_, if_pos hbase, rfl, fun a ha => ?_⟩
    have haddr := addr.isLt
    rw [State.memRead_memWrite, Nat.mod_eq_of_lt ha, Nat.mod_eq_of_lt haddr]
  case below => exact if_neg (Nat.not_le.2 hlow)
  case row => exact (s.loadPortRow_eq _ _ (by decide) (by change 0x200 + _ ≤ _; omega)).trans (State.hostLoad_of_fits hl).symm

end Sys2Proof.Machine
